-- ==== Sys2Proof/Word.lean ====
section
/-! DEFINITION. The words of the block: bytes, register addresses, and the events that are its only inputs. -/

namespace Sys2Proof

/-- A byte: the unit of every exchange with the bus master (20_memory.md R51); bit 0 is the least significant (00_scope.md R8). -/
abbrev Byte := BitVec 8

/-- The address of a register-file cell, 0..127 (10_state.md R20); every command ID is one (30_encoding.md R76.3). -/
abbrev RegAddr := BitVec 7

/-- A register address as the byte that selects it (30_encoding.md R73: the ID is compared with the whole byte `sel`). -/
def RegAddr.toByte (a : RegAddr) : Byte := a.setWidth 8

/-- The events the block reacts to (30_encoding.md R70): the three bus events and the background loop's Dequeue. -/
inductive Event where
  /-- `RX(b)`: byte received. -/
  | rx (b : Byte)
  /-- `REQ`: byte requested. -/
  | req
  /-- `FIN`: transaction finished (bus stop or restart). -/
  | fin
  /-- `DEQ`: one Dequeue of the background loop. -/
  | deq
  deriving DecidableEq, Repr

/-- What selects an instruction: the event together with the transaction state it meets (30_encoding.md R70, R77, R79). -/
structure Fetch where
  /-- Whether an address byte has been received in this transaction. -/
  aset : Bool
  /-- The last address byte received. -/
  sel : Byte
  /-- The event. -/
  event : Event
  deriving DecidableEq, Repr

end Sys2Proof
end

