-- ==== Sys2Proof/Config.lean ====
section
/-! DEFINITION. The configuration: fixed parameters (00_scope.md R6), the open parameters the spec has the model
take as an argument (R7), and the free values. -/

namespace Sys2Proof

/-- The 18 write-phase commands (30_encoding.md R75, rows 1 to 18). -/
inductive WriteCmd where
  | gpioClr | gpioSet | bankClr | dirOut | dirIn | drive0 | drive1 | drive2 | drive3
  | pullUp | pullNone | pullDown | padPrepare | padApply
  | port0Dir | port0Out | port1Dir | port1Out
  deriving DecidableEq, Repr

/-- The 11 read-phase commands (30_encoding.md R75, rows 19 to 29). -/
inductive ReadCmd where
  | verMajor | verMinor | getBank | getPort0 | getPort1 | getTrue | getDir | getStrength | getPull | getPad | status
  deriving DecidableEq, Repr

/-- The kinds of trace record (10_state.md R30). -/
inductive TraceKind where
  /-- A write-phase command ran. -/
  | wcmd
  /-- A write-phase command was rejected. -/
  | wrej
  /-- A read-phase command ran. -/
  | rcmd
  /-- A read-phase command was rejected. -/
  | rrej
  /-- The byte returned to the master. -/
  | rval
  deriving DecidableEq, Repr

/-- A trace record, the abstract triple of 10_state.md R30. -/
structure Record where
  kind : TraceKind
  /-- The command ID or the address. -/
  id : Byte
  /-- The value the record reports. -/
  val : Byte
  deriving DecidableEq, Repr

/-- The kinds of query to the GPIO driver (10_state.md R34). -/
inductive QueryKind where
  | bank (b : BitVec 1)
  | port (p : BitVec 1)
  | trueValue
  | dir
  | drive
  | pull
  | pad
  deriving DecidableEq, Repr

/-- The 25 command IDs the document leaves open (00_scope.md R7, 92_eei_decisions.md D2). -/
structure CommandIds where
  gpioClr : RegAddr
  bankClr : RegAddr
  dirOut : RegAddr
  dirIn : RegAddr
  drive0 : RegAddr
  drive1 : RegAddr
  drive2 : RegAddr
  drive3 : RegAddr
  pullUp : RegAddr
  pullNone : RegAddr
  pullDown : RegAddr
  padPrepare : RegAddr
  padApply : RegAddr
  port0Out : RegAddr
  port1Dir : RegAddr
  port1Out : RegAddr
  verMinor : RegAddr
  getBank : RegAddr
  getPort0 : RegAddr
  getPort1 : RegAddr
  getTrue : RegAddr
  getDir : RegAddr
  getStrength : RegAddr
  getPull : RegAddr
  getPad : RegAddr
  deriving DecidableEq, Repr

/-- The open IDs in the order of 30_encoding.md R75. -/
def CommandIds.toList (c : CommandIds) : List RegAddr :=
  [c.gpioClr, c.bankClr, c.dirOut, c.dirIn, c.drive0, c.drive1, c.drive2, c.drive3, c.pullUp, c.pullNone,
   c.pullDown, c.padPrepare, c.padApply, c.port0Out, c.port1Dir, c.port1Out, c.verMinor, c.getBank,
   c.getPort0, c.getPort1, c.getTrue, c.getDir, c.getStrength, c.getPull, c.getPad]

/-- The bit positions of the status flags, `FLAG_POS` (00_scope.md R7).
DESIGN CHOICE (the spec's D5, log 8): the defaults. -/
structure FlagPos where
  cfg : Fin 8 := 0
  cmd : Fin 8 := 1
  err : Fin 8 := 2
  wdog : Fin 8 := 3
  deriving DecidableEq, Repr

/-- `Q_LIVE`, the number of live records the queue can hold: 63 or 64 (00_scope.md R7). -/
inductive QLive where
  | live63
  | live64
  deriving DecidableEq, Repr

/-- `Q_LIVE` as a number. -/
def QLive.toNat : QLive → Nat
  | .live63 => 63
  | .live64 => 64

/-- The parameters of 00_scope.md R7, each with the default R7 gives it, if it gives one.
`RENDER` and `RECORD_LEN` are `Config.render` and `Config.recordLen` below. -/
structure Params where
  /-- `CMD_<m>`. -/
  ids : CommandIds
  /-- `KNOWN_IDENTITIES`. -/
  knownIdentities : List (BitVec 7)
  /-- `PORT_IDENTITY`. -/
  portIdentity : BitVec 7
  /-- `VERSION_MAJOR_VAL`. -/
  versionMajor : Byte
  /-- `VERSION_MINOR_VAL`. -/
  versionMinor : Byte
  /-- `PORT1_SHIFT`. DESIGN CHOICE (the spec's D11, log 14): the default. -/
  port1Shift : Nat := 10
  /-- `FLAG_POS`. -/
  flagPos : FlagPos := {}
  /-- `BOOT_RECORDS`. DESIGN CHOICE (the spec's D35, log 19): the default. -/
  bootRecords : List Record := []
  /-- `DIR_ONE_IS_OUT`. DESIGN CHOICE (the spec's D11, log 14): the default. -/
  dirOneIsOut : Bool := true
  /-- `UNMATCHED_RAISES_CMD`. DESIGN CHOICE (the spec's D7, log 11): the default. -/
  unmatchedRaisesCmd : Bool := false
  /-- `Q_LIVE`. DESIGN CHOICE (the spec's D14, log 16): the default. -/
  qLive : QLive := .live64
  /-- `RESET_REGS`, the cells: pairs of an address and a byte, every other cell 0. PRESUMED (the spec's D17, log 6): the default. -/
  resetRegs : List Host.Cell := []
  /-- `RESET_REGS`, the value of `sel`. PRESUMED (the spec's D17, log 6): the default. -/
  resetSel : Byte := 0
  deriving DecidableEq, Repr

/-- The command IDs the document fixes: 1, 11, 80 and 100 (00_scope.md R6, 30_encoding.md R76.4). -/
def Config.fixedIds : List RegAddr := [1, 11, 80, 100]

/-- What every parameterisation must meet: 30_encoding.md R76 (all 29 IDs are pairwise distinct, the fixed four among
them; that each is below 128 is its type) and the constraints of 00_scope.md R7. -/
abbrev Params.Admissible (p : Params) : Prop :=
  (p.ids.toList ++ Config.fixedIds).Nodup
  ∧ p.portIdentity ∈ p.knownIdentities
  ∧ 8 ≤ p.port1Shift
  ∧ [p.flagPos.cfg, p.flagPos.cmd, p.flagPos.err, p.flagPos.wdog].Nodup
  ∧ p.bootRecords.length ≤ 64

/-- Every parameter for which 00_scope.md R7 states a default has it. -/
abbrev Params.AtDefaults (p : Params) : Prop :=
  p.port1Shift = 10 ∧ p.flagPos = {} ∧ p.bootRecords = [] ∧ p.dirOneIsOut = true
  ∧ p.unmatchedRaisesCmd = false ∧ p.qLive = .live64 ∧ p.resetRegs = [] ∧ p.resetSel = 0

/-- Some parameters that meet 30_encoding.md R76 and 00_scope.md R7: they only show that such parameters exist, which
Lean asks for before `Config.choice` may be left open. No definition or statement rests on these numbers. -/
def Params.sample : Params where
  ids :=
    { gpioClr := 2, bankClr := 3, dirOut := 4, dirIn := 5, drive0 := 6, drive1 := 7, drive2 := 8, drive3 := 9,
      pullUp := 12, pullNone := 13, pullDown := 14, padPrepare := 15, padApply := 16, port0Out := 17,
      port1Dir := 18, port1Out := 19, verMinor := 20, getBank := 21, getPort0 := 22, getPort1 := 23,
      getTrue := 24, getDir := 25, getStrength := 26, getPull := 27, getPad := 28 }
  knownIdentities := [0]
  portIdentity := 0
  versionMajor := 0
  versionMinor := 0

/-- Parameters together with what they must meet. -/
structure AdmissibleParams where
  params : Params := Params.sample
  admissible : params.Admissible := by decide
  atDefaults : params.AtDefaults := by decide
  deriving Inhabited

namespace Config

/-- The parameters of the device after reset, left open (92_eei_decisions.md D2, D18, D19: "OPEN"): any admissible ones,
with the spec's defaults where it states one. DESIGN CHOICE (log 1). -/
opaque choice : AdmissibleParams

/-- The parameters of the device after reset. -/
def params : Params := choice.params

/-- The free answer of the GPIO driver to draw number `n`, a query of kind `k` with argument `v`: any byte
(10_state.md R34, 93_implementation_defined.md U6; log 5). -/
opaque gpioAnswer (n : Nat) (k : QueryKind) (v : Byte) : Byte

/-- The identity input of the first boot, the strap reader's free answer (70_reset_and_hazards.md R230, R235; log 3). -/
opaque identityIn : Byte

/-- The reset reason of the first boot, the watchdog service's free answer (70_reset_and_hazards.md R230, R231; log 3). -/
opaque wdogReason : Bool

/-- One less than `RECORD_LEN`, left open (00_scope.md R7: at least 1; log 18). -/
opaque recordLenPred : Nat

/-- `RECORD_LEN`, the byte length of a record's text (00_scope.md R7). -/
def recordLen : Nat := recordLenPred + 1

/-- The bytes from which a record's text is made, left open (00_scope.md R7 `RENDER`; log 18). -/
opaque renderText (r : Record) : List Byte

/-- `RENDER`: the text of a record, at most `RECORD_LEN` bytes (00_scope.md R7, 10_state.md R30). -/
def render (r : Record) : List Byte := (renderText r).take recordLen

/-- `N_REGS` (00_scope.md R6). -/
def nRegs : Nat := 128

/-- `BANK_THRESHOLD` (00_scope.md R6). -/
def bankThreshold : Nat := 10

end Config

end Sys2Proof
end

