-- ==== Sys2Proof/Machine/State.lean ====
section
/-! DEFINITION. The state of the block (10_state.md), the reasons a step can stop, and the state after reset. -/

namespace Sys2Proof.Machine

/-- The register file (10_state.md R20): pairs of a cell's address and its byte, addresses rising, no pair whose byte is
what an unlisted cell reads as (log 28). -/
abbrev Memory := List Host.Cell

/-- What an unlisted cell reads as: the reset value of a cell (10_state.md R36).
PRESUMED (the spec's own D17, from general knowledge; log 6), unsafe: the document gives no reset value. -/
def Memory.unlisted : Byte := 0

/-- The status flag register (10_state.md R26): four sticky bits; the spare bits are not stored and read 0. -/
structure Flags where
  /-- Invalid configuration at boot. -/
  cfg : Bool := false
  /-- Invalid command for this device identity. -/
  cmd : Bool := false
  /-- Generic error. -/
  err : Bool := false
  /-- The last reset was caused by a watchdog timeout. -/
  wdog : Bool := false
  deriving DecidableEq, Repr

/-- The event queue's storage (10_state.md R31); an empty slot (the zero record) is `none` (R30).
DESIGN CHOICE (the spec's D34, log 16): the index layout. -/
structure EventQueue where
  slots : Vector (Option Record) 64
  /-- The slot of the oldest live record. -/
  head : Fin 64
  /-- The slot the next record is written to. -/
  tail : Fin 64
  /-- The number of live records. -/
  count : Nat
  deriving DecidableEq, Repr

/-- The queue right after `Reset()`: every slot empty, every counter 0 (10_state.md R31, 43_event_queue.md R183). -/
def EventQueue.empty : EventQueue where
  slots := Vector.replicate 64 none
  head := 0
  tail := 0
  count := 0

/-- A pin direction (10_state.md R33). -/
inductive Direction where
  | output
  | input
  deriving DecidableEq, Repr

/-- A pull mode (10_state.md R33). -/
inductive PullMode where
  | up
  | none
  | down
  deriving DecidableEq, Repr

/-- A request to the GPIO driver (10_state.md R33). A pin mask is a number whose bit `n` stands for pin `n`. -/
inductive GpioRequest where
  | put (pin : Byte) (level : BitVec 1)
  | putMasked (mask value : Nat)
  | setDir (pin : Byte) (dir : Direction)
  /-- In `value` a 1 means output. -/
  | dirMasked (mask value : Nat)
  | setDrive (pin : Byte) (level : Fin 4)
  | setPull (pin : Byte) (mode : PullMode)
  | setPad (pin : Byte) (pad : Byte)
  deriving DecidableEq, Repr

/-- A query to the GPIO driver, `GpioQuery(kind, v)` (10_state.md R34). -/
structure GpioQuery where
  kind : QueryKind
  arg : Byte
  deriving DecidableEq, Repr

/-- What the outside world can do to the block between two steps: an event (30_encoding.md R70), or a reset of the whole
device with the two inputs its boot will take (60_exceptions.md R214, 70_reset_and_hazards.md R230). -/
inductive Input where
  | event (e : Event)
  | reset (identityIn : Byte) (wdogReason : Bool)
  deriving DecidableEq, Repr

/-- Why the handler is stuck: the reasons of `raise Fault` (60_exceptions.md R207). -/
inductive Fault where
  /-- ADDR_RANGE: a data byte or a REQ used an address of 128 or more (40_transaction_fsm.md R106). RX_DATA, REQ and the
  commands leave it in the state's `fault`; every handler instruction answers with it while it stands there. Safe: the
  document gives no behaviour (93_implementation_defined.md U5, U22; log 7). -/
  | addrRange
  deriving DecidableEq, Repr

/-- Why an instruction is refused. -/
inductive Refusal where
  /-- An instruction that has no meaning yet: raised by an arm of `exec` only. Safe. No arm of this model raises it. -/
  | notModelled (mnemonic : String)
  /-- An instruction before boot has finished: raised by every instruction's meaning. Safe: neither agent has a step
  then (70_reset_and_hazards.md R236, 93_implementation_defined.md U19; log 23). -/
  | beforeBoot
  deriving DecidableEq, Repr

/-- The state of the block (10_state.md R36), the parameters it runs under (R35), and the model's own fields. -/
structure State where
  /-- The parameters: configuration, constant at run time (10_state.md R35, 00_scope.md R7; log 1). -/
  params : Params
  /-- The register file (10_state.md R20). -/
  reg : Memory
  /-- `selected_address` (10_state.md R23). -/
  sel : Byte
  /-- `address_set`: true in ADDR_SET, false in IDLE (10_state.md R24, R25). -/
  aset : Bool
  /-- The status flags (10_state.md R26). -/
  flags : Flags
  /-- The device identity (10_state.md R29). -/
  identity : Byte
  /-- The event queue (10_state.md R31). -/
  queue : EventQueue
  /-- The model's fault mark (10_state.md R32). -/
  fault : Option Fault
  /-- The requests sent to the GPIO driver, oldest first (10_state.md R33). -/
  gpioLog : List GpioRequest
  /-- Whether the boot step has ended (10_state.md R36, 70_reset_and_hazards.md R236). -/
  booted : Bool
  /-- The identity input of the boot to come or last taken (70_reset_and_hazards.md R230; model's own, log 3). -/
  identityIn : Byte
  /-- The reset reason of the boot to come or last taken (70_reset_and_hazards.md R230; model's own, log 3). -/
  wdogReason : Bool
  /-- The inputs still to come, next first (model's own, log 2). -/
  schedule : List Input
  /-- The bytes sent by `Reply`, oldest first (00_scope.md R10; model's own, log 20). -/
  replies : List Byte
  /-- The records `Dequeue` returned, oldest first: `D` of 43_event_queue.md R186 (model's own, log 20). -/
  sink : List Record
  /-- The queries made, oldest first (10_state.md R34; model's own, log 20). -/
  queryLog : List GpioQuery
  /-- How many draws have been taken: the index of the next free answer (model's own, log 5). -/
  draws : Nat
  deriving DecidableEq, Repr

/-- The machine right after reset, before its boot step (10_state.md R36). The parameters and the boot inputs are the free
constants of `Config` (DESIGN CHOICE, log 1 and log 3); the identity is "the identity input at boot"; the model's own
lists are empty and no draw has been taken (DESIGN CHOICE, log 2, log 5, log 20). -/
def State.reset : State where
  params := Config.params
  reg := []
  sel := 0
  aset := false
  flags := {}
  identity := Config.identityIn
  queue := .empty
  fault := none
  gpioLog := []
  booted := false
  identityIn := Config.identityIn
  wdogReason := Config.wdogReason
  schedule := []
  replies := []
  sink := []
  queryLog := []
  draws := 0

end Sys2Proof.Machine
end

