-- ==== Sys2Proof/Machine/Operands.lean ====
section
/-! DEFINITION. The ways a command reads its operand byte `v` (30_encoding.md R74): as a pin number it is used whole and
unchecked, so only the bank selector and the port mask need a definition. -/

namespace Sys2Proof.Machine

/-- The bank that `v` selects: bank 0 if `v < 10`, else bank 1 (30_encoding.md R74, 41_write_commands.md R124).
For GET_BANK this is the spec's D12 (DESIGN CHOICE, log 15). -/
def bankOf (v : Byte) : BitVec 1 := if v.toNat < Config.bankThreshold then 0 else 1

/-- The pins of a bank: 0..7 or 10..17 (41_write_commands.md R124). -/
def bankMask (b : BitVec 1) : Nat := if b = 0 then 0x000FF else 0x3FC00

/-- The lowest pin of a port: 0, or `PORT1_SHIFT` (30_encoding.md R74). DESIGN CHOICE (the spec's D11, log 14). -/
def portBase (p : Params) (port : BitVec 1) : Nat := if port = 0 then 0 else p.port1Shift

/-- A port byte as a pin mask: bit `i` stands for pin `base + i` (30_encoding.md R74, 41_write_commands.md R136 to R139). -/
def portPins (p : Params) (port : BitVec 1) (v : Byte) : Nat := v.toNat <<< portBase p port

/-- A direction byte with 1 for output: `v` itself, or its complement if the device's own polarity is the other one
(`DIR_ONE_IS_OUT`, 00_scope.md R7). DESIGN CHOICE (the spec's D11, log 14). -/
def dirBits (p : Params) (v : Byte) : Byte := if p.dirOneIsOut then v else ~~~v

end Sys2Proof.Machine
end

