-- ==== Sys2Proof/Syntax.lean ====
section
/-! DEFINITION. The instructions: one constructor per row of spec/opcode_table.json. -/

namespace Sys2Proof

/-- The 34 rows of spec/opcode_table.json: five events and 29 commands (30_encoding.md R70, R75).
A write-phase command carries its data byte `v`; a read-phase command takes its argument from `reg[sel]`
(30_encoding.md R74), so it carries none. -/
inductive Instr where
  /-- RX_ADDR: the address byte `b` (40_transaction_fsm.md R101). -/
  | rxAddr (b : Byte)
  /-- RX_DATA: the data byte `v` (40_transaction_fsm.md R102). -/
  | rxData (v : Byte)
  /-- REQ: a byte is requested (40_transaction_fsm.md R103). -/
  | req
  /-- FIN: bus stop or restart (40_transaction_fsm.md R104). -/
  | fin
  /-- DEQ: a Dequeue of the background loop (43_event_queue.md R184). -/
  | deq
  /-- GPIO_CLR, pin `v` (41_write_commands.md R122). -/
  | gpioClr (v : Byte)
  /-- GPIO_SET, pin `v` (41_write_commands.md R123). -/
  | gpioSet (v : Byte)
  /-- BANK_CLR, bank selector `v` (41_write_commands.md R124). -/
  | bankClr (v : Byte)
  /-- DIR_OUT, pin `v` (41_write_commands.md R125). -/
  | dirOut (v : Byte)
  /-- DIR_IN, pin `v` (41_write_commands.md R126). -/
  | dirIn (v : Byte)
  /-- DRIVE0, pin `v` (41_write_commands.md R127). -/
  | drive0 (v : Byte)
  /-- DRIVE1, pin `v` (41_write_commands.md R128). -/
  | drive1 (v : Byte)
  /-- DRIVE2, pin `v` (41_write_commands.md R129). -/
  | drive2 (v : Byte)
  /-- DRIVE3, pin `v` (41_write_commands.md R130). -/
  | drive3 (v : Byte)
  /-- PULL_UP, pin `v` (41_write_commands.md R131). -/
  | pullUp (v : Byte)
  /-- PULL_NONE, pin `v` (41_write_commands.md R132). -/
  | pullNone (v : Byte)
  /-- PULL_DOWN, pin `v` (41_write_commands.md R133). -/
  | pullDown (v : Byte)
  /-- PAD_PREPARE, pad byte `v` (41_write_commands.md R134). -/
  | padPrepare (v : Byte)
  /-- PAD_APPLY, pin `v` (41_write_commands.md R135). -/
  | padApply (v : Byte)
  /-- PORT0_DIR, port mask `v` (41_write_commands.md R136). -/
  | port0Dir (v : Byte)
  /-- PORT0_OUT, port mask `v` (41_write_commands.md R137). -/
  | port0Out (v : Byte)
  /-- PORT1_DIR, port mask `v` (41_write_commands.md R138). -/
  | port1Dir (v : Byte)
  /-- PORT1_OUT, port mask `v` (41_write_commands.md R139). -/
  | port1Out (v : Byte)
  /-- VER_MAJOR (42_read_commands.md R151). -/
  | verMajor
  /-- VER_MINOR (42_read_commands.md R152). -/
  | verMinor
  /-- GET_BANK (42_read_commands.md R153). -/
  | getBank
  /-- GET_PORT0 (42_read_commands.md R154). -/
  | getPort0
  /-- GET_PORT1 (42_read_commands.md R155). -/
  | getPort1
  /-- GET_TRUE (42_read_commands.md R156). -/
  | getTrue
  /-- GET_DIR (42_read_commands.md R157). -/
  | getDir
  /-- GET_STRENGTH (42_read_commands.md R158). -/
  | getStrength
  /-- GET_PULL (42_read_commands.md R159). -/
  | getPull
  /-- GET_PAD (42_read_commands.md R160). -/
  | getPad
  /-- STATUS (42_read_commands.md R161). -/
  | status
  deriving DecidableEq, Repr

end Sys2Proof
end

