-- ==== Sys2Proof/Decode.lean ====
section
/-! DEFINITION. The command table (30_encoding.md R75 to R77), the decoder of a bus event and of a bare command word,
and the encoder of both. -/

namespace Sys2Proof

/-- The ID of a write-phase command (30_encoding.md R75; 11 and 80 by R76.4).
DESIGN CHOICE (the spec's D3, log 10): ID 80 is PORT0_DIR. -/
def Params.writeId (p : Params) : WriteCmd → RegAddr
  | .gpioClr => p.ids.gpioClr
  | .gpioSet => 11
  | .bankClr => p.ids.bankClr
  | .dirOut => p.ids.dirOut
  | .dirIn => p.ids.dirIn
  | .drive0 => p.ids.drive0
  | .drive1 => p.ids.drive1
  | .drive2 => p.ids.drive2
  | .drive3 => p.ids.drive3
  | .pullUp => p.ids.pullUp
  | .pullNone => p.ids.pullNone
  | .pullDown => p.ids.pullDown
  | .padPrepare => p.ids.padPrepare
  | .padApply => p.ids.padApply
  | .port0Dir => 80
  | .port0Out => p.ids.port0Out
  | .port1Dir => p.ids.port1Dir
  | .port1Out => p.ids.port1Out

/-- The ID of a read-phase command (30_encoding.md R75; 1 and 100 by R76.4). -/
def Params.readId (p : Params) : ReadCmd → RegAddr
  | .verMajor => 1
  | .verMinor => p.ids.verMinor
  | .getBank => p.ids.getBank
  | .getPort0 => p.ids.getPort0
  | .getPort1 => p.ids.getPort1
  | .getTrue => p.ids.getTrue
  | .getDir => p.ids.getDir
  | .getStrength => p.ids.getStrength
  | .getPull => p.ids.getPull
  | .getPad => p.ids.getPad
  | .status => 100

/-- The write-phase commands, the two with a fixed ID first. -/
def WriteCmd.all : List WriteCmd :=
  [.gpioSet, .port0Dir, .gpioClr, .bankClr, .dirOut, .dirIn, .drive0, .drive1, .drive2, .drive3, .pullUp,
    .pullNone, .pullDown, .padPrepare, .padApply, .port0Out, .port1Dir, .port1Out]

/-- The read-phase commands, the two with a fixed ID first. -/
def ReadCmd.all : List ReadCmd :=
  [.verMajor, .status, .verMinor, .getBank, .getPort0, .getPort1, .getTrue, .getDir, .getStrength, .getPull,
    .getPad]

/-- `wcmd(id)`: the write-phase row with this ID, if any (30_encoding.md R77). -/
def Params.wcmd (p : Params) (id : Byte) : Option WriteCmd :=
  WriteCmd.all.find? fun m => (p.writeId m).toByte == id

/-- `rcmd(id)`: the read-phase row with this ID, if any (30_encoding.md R77). -/
def Params.rcmd (p : Params) (id : Byte) : Option ReadCmd :=
  ReadCmd.all.find? fun m => (p.readId m).toByte == id

/-- The instruction of a write-phase command and its data byte. -/
def WriteCmd.instr (v : Byte) : WriteCmd → Instr
  | .gpioClr => .gpioClr v
  | .gpioSet => .gpioSet v
  | .bankClr => .bankClr v
  | .dirOut => .dirOut v
  | .dirIn => .dirIn v
  | .drive0 => .drive0 v
  | .drive1 => .drive1 v
  | .drive2 => .drive2 v
  | .drive3 => .drive3 v
  | .pullUp => .pullUp v
  | .pullNone => .pullNone v
  | .pullDown => .pullDown v
  | .padPrepare => .padPrepare v
  | .padApply => .padApply v
  | .port0Dir => .port0Dir v
  | .port0Out => .port0Out v
  | .port1Dir => .port1Dir v
  | .port1Out => .port1Out v

/-- The instruction of a read-phase command. -/
def ReadCmd.instr : ReadCmd → Instr
  | .verMajor => .verMajor
  | .verMinor => .verMinor
  | .getBank => .getBank
  | .getPort0 => .getPort0
  | .getPort1 => .getPort1
  | .getTrue => .getTrue
  | .getDir => .getDir
  | .getStrength => .getStrength
  | .getPull => .getPull
  | .getPad => .getPad
  | .status => .status

/-- Which instruction an event is (30_encoding.md R70, R77, R79): `aset` alone tells an address byte from a data byte,
a data byte consults only `wcmd(sel)` and a request only `rcmd(sel)`. An event that matches a command is that command's
instruction, any other data byte is RX_DATA and any other request REQ (log 22). No event is illegal (R78). -/
def decode (p : Params) (f : Fetch) : Instr :=
  match f.event with
  | .rx b =>
    if f.aset then
      match p.wcmd f.sel with
      | some m => m.instr b
      | none => .rxData b
    else .rxAddr b
  | .req =>
    match p.rcmd f.sel with
    | some m => m.instr
    | none => .req
  | .fin => .fin
  | .deq => .deq

/-- A command of either phase. -/
inductive Command where
  | write (m : WriteCmd)
  | read (m : ReadCmd)
  deriving DecidableEq, Repr

/-- The ID of a command (30_encoding.md R75). -/
def Params.commandId (p : Params) : Command → RegAddr
  | .write m => p.writeId m
  | .read m => p.readId m

/-- All 29 commands, the four with a fixed ID first. -/
def Command.all : List Command :=
  [.write .gpioSet, .write .port0Dir, .read .verMajor, .read .status]
    ++ (WriteCmd.all.drop 2).map .write ++ (ReadCmd.all.drop 2).map .read

/-- The command with this ID, of whichever phase: the two sets of IDs are disjoint (30_encoding.md R76.1). -/
def Params.command (p : Params) (id : Byte) : Option Command :=
  Command.all.find? fun c => (p.commandId c).toByte == id

/-- Why bytes are no command word. -/
inductive DecodeError where
  /-- There is no byte. -/
  | noBytes
  /-- The ID of a write-phase command stands without its data byte. -/
  | noDataByte (m : WriteCmd)
  /-- The address is a plain cell: no command has it as its ID (30_encoding.md R78). -/
  | plainCell (a : Byte)
  /-- The address is 128 or more: no register and no ID (30_encoding.md R73, R76.3). -/
  | noRegister (a : Byte)
  deriving DecidableEq, Repr

/-- The command word at the head of some bytes, with the bytes after it: the ID (the address byte), and for a write-phase
command the data byte `v` (opcode_table.json: ID in bits 7..0; 30_encoding.md R73, R74). DESIGN CHOICE (log 24): this layout. -/
def decodeCommand (p : Params) : List Byte → Except DecodeError (Instr × List Byte)
  | [] => .error .noBytes
  | id :: rest =>
    match p.command id with
    | some (.read m) => .ok (m.instr, rest)
    | some (.write m) =>
      match rest with
      | v :: rest => .ok (m.instr v, rest)
      | [] => .error (.noDataByte m)
    | none => .error (if id.toNat < Config.nRegs then .plainCell id else .noRegister id)

/-- The two bytes of a table word, first byte first; above the table's `nbits` bits every bit is 0. -/
def tableBytes (nbits w : Nat) : List Byte :=
  [BitVec.ofNat 8 (w % 2 ^ nbits), BitVec.ofNat 8 (w % 2 ^ nbits / 256)]

/-- The instruction the decoder reads from a row's word of spec/opcode_table.json, under the device's parameters (log 24). -/
def decodeTableWord (nbits w : Nat) : Option Instr :=
  match decodeCommand Config.params (tableBytes nbits w) with
  | .ok (i, _) => some i
  | .error _ => none

/-- The event of an instruction and the transaction state that makes it that instruction (30_encoding.md R70, R75, R79).
`sel` is the address in force for the rows whose table entry names none. REQ, FIN and DEQ are the same for either value
of `aset`; they are encoded as the script forms have them (R80: a request comes after a FIN, a FIN ends a transaction). -/
def encode (p : Params) (sel : Byte) : Instr → Fetch
  | .rxAddr b => ⟨false, sel, .rx b⟩
  | .rxData v => ⟨true, sel, .rx v⟩
  | .req => ⟨false, sel, .req⟩
  | .fin => ⟨true, sel, .fin⟩
  | .deq => ⟨false, sel, .deq⟩
  | .gpioClr v => ⟨true, (p.writeId .gpioClr).toByte, .rx v⟩
  | .gpioSet v => ⟨true, (p.writeId .gpioSet).toByte, .rx v⟩
  | .bankClr v => ⟨true, (p.writeId .bankClr).toByte, .rx v⟩
  | .dirOut v => ⟨true, (p.writeId .dirOut).toByte, .rx v⟩
  | .dirIn v => ⟨true, (p.writeId .dirIn).toByte, .rx v⟩
  | .drive0 v => ⟨true, (p.writeId .drive0).toByte, .rx v⟩
  | .drive1 v => ⟨true, (p.writeId .drive1).toByte, .rx v⟩
  | .drive2 v => ⟨true, (p.writeId .drive2).toByte, .rx v⟩
  | .drive3 v => ⟨true, (p.writeId .drive3).toByte, .rx v⟩
  | .pullUp v => ⟨true, (p.writeId .pullUp).toByte, .rx v⟩
  | .pullNone v => ⟨true, (p.writeId .pullNone).toByte, .rx v⟩
  | .pullDown v => ⟨true, (p.writeId .pullDown).toByte, .rx v⟩
  | .padPrepare v => ⟨true, (p.writeId .padPrepare).toByte, .rx v⟩
  | .padApply v => ⟨true, (p.writeId .padApply).toByte, .rx v⟩
  | .port0Dir v => ⟨true, (p.writeId .port0Dir).toByte, .rx v⟩
  | .port0Out v => ⟨true, (p.writeId .port0Out).toByte, .rx v⟩
  | .port1Dir v => ⟨true, (p.writeId .port1Dir).toByte, .rx v⟩
  | .port1Out v => ⟨true, (p.writeId .port1Out).toByte, .rx v⟩
  | .verMajor => ⟨false, (p.readId .verMajor).toByte, .req⟩
  | .verMinor => ⟨false, (p.readId .verMinor).toByte, .req⟩
  | .getBank => ⟨false, (p.readId .getBank).toByte, .req⟩
  | .getPort0 => ⟨false, (p.readId .getPort0).toByte, .req⟩
  | .getPort1 => ⟨false, (p.readId .getPort1).toByte, .req⟩
  | .getTrue => ⟨false, (p.readId .getTrue).toByte, .req⟩
  | .getDir => ⟨false, (p.readId .getDir).toByte, .req⟩
  | .getStrength => ⟨false, (p.readId .getStrength).toByte, .req⟩
  | .getPull => ⟨false, (p.readId .getPull).toByte, .req⟩
  | .getPad => ⟨false, (p.readId .getPad).toByte, .req⟩
  | .status => ⟨false, (p.readId .status).toByte, .req⟩

/-- The command word of a command (log 24): the ID, and a write-phase command's data byte. -/
def encodeCommand (p : Params) : Command → Byte → List Byte
  | .write m, v => [(p.writeId m).toByte, v]
  | .read m, _ => [(p.readId m).toByte]

/-- The instruction of a command of either phase. -/
def Command.instr (v : Byte) : Command → Instr
  | .write m => m.instr v
  | .read m => m.instr

end Sys2Proof
end

