-- ==== Sys2Proof/Machine/Flags.lean ====
section
/-! DEFINITION. The status flags: the flags byte and the one flag a command raises (10_state.md R26 to R28). -/

namespace Sys2Proof.Machine

/-- A flag as the bit at its position in a byte (10_state.md R28). -/
def flagBit (b : Bool) (pos : Fin 8) : Byte := (if b then 1#8 else 0#8) <<< pos.val

/-- `flags_byte()`: every bit position that no flag has reads 0 (10_state.md R28). -/
def flagsByte (pos : FlagPos) (f : Flags) : Byte :=
  flagBit f.cfg pos.cfg ||| flagBit f.cmd pos.cmd ||| flagBit f.err pos.err ||| flagBit f.wdog pos.wdog

/-- `flags.cmd <- true`: sticky (10_state.md R27, 41_write_commands.md R121). -/
def State.raiseCmd (s : State) : State := { s with flags := { s.flags with cmd := true } }

end Sys2Proof.Machine
end

