-- ==== Sys2Proof/Machine/Ops.lean ====
section
/-! DEFINITION. The named operations over the register file, the event queue and the interfaces, the block's only
reactions to an error (the fault mark and the rejection), the handler's step, boot and reset. -/

namespace Sys2Proof.Machine

/-! ### The register file -/

/-- `reg[a]` (00_scope.md R10 `MemRead`). -/
def Memory.read : Memory → Nat → Byte
  | [], _ => Memory.unlisted
  | (b, w) :: rest, a => if a = b then w else Memory.read rest a

/-- Puts a cell before a list, unless its byte is what an unlisted cell reads as. -/
def Memory.cons (a : Nat) (v : Byte) (rest : Memory) : Memory :=
  if v = Memory.unlisted then rest else (a, v) :: rest

/-- `reg[a] <- v` (00_scope.md R10 `MemWrite`), keeping the canonical form (log 28). -/
def Memory.write : Memory → Nat → Byte → Memory
  | [], a, v => Memory.cons a v []
  | (b, w) :: rest, a, v =>
    if a < b then Memory.cons a v ((b, w) :: rest)
    else if a = b then Memory.cons a v rest
    else (b, w) :: Memory.write rest a v

/-- The canonical form from address `lo` on: addresses rising, each a cell's, no byte an unlisted cell would read as. -/
def Memory.wfFrom : Nat → Memory → Bool
  | _, [] => true
  | lo, (a, v) :: rest =>
    decide (lo ≤ a) && decide (a < Config.nRegs) && (v != Memory.unlisted) && Memory.wfFrom (a + 1) rest

/-- The canonical form of the register file (log 28). -/
def Memory.wf (m : Memory) : Bool := Memory.wfFrom 0 m

/-- The register file after reset: the cells of `RESET_REGS`, by default all 0 (00_scope.md R7, 10_state.md R36; log 6). -/
def Memory.load (cells : List Host.Cell) : Memory :=
  cells.foldl (fun m c => if c.1 < Config.nRegs then m.write c.1 c.2 else m) []

/-- The cell a byte addresses: none from 128 on (20_memory.md R53). -/
def regAddr? (b : Byte) : Option RegAddr :=
  if b.toNat < Config.nRegs then some (b.setWidth 7) else none

/-- `reg[a]` of the state. -/
def State.cell (s : State) (a : RegAddr) : Byte := Memory.read s.reg a.toNat

/-- `reg[a] <- v` of the state. -/
def State.setCell (s : State) (a : RegAddr) (v : Byte) : State := { s with reg := Memory.write s.reg a.toNat v }

/-! ### The event queue -/

/-- The slot with index `i` modulo 64. -/
def EventQueue.slot (q : EventQueue) (i : Nat) : Option Record :=
  q.slots[i % 64]'(Nat.mod_lt i (by decide))

/-- `contents(q)`: the live records, oldest first (10_state.md R31). -/
def EventQueue.contents (q : EventQueue) : List Record :=
  (List.range q.count).filterMap fun i => q.slot (q.head.val + i)

/-- `Enqueue(rec)`: whether it was accepted, and the queue after it (43_event_queue.md R181, R182). `live` is the number of
live records the queue can hold, 64 by default (`Q_LIVE`). DESIGN CHOICE (the spec's D14, log 16). -/
def EventQueue.enqueue (live : Nat) (q : EventQueue) (r : Record) : Bool × EventQueue :=
  if q.count < live then
    (true, { slots := q.slots.set q.tail.val (some r), head := q.head, tail := q.tail + 1, count := q.count + 1 })
  else (false, q)

/-- `Dequeue()`: the oldest record, if any, and the queue after it, its slot emptied (43_event_queue.md R184). -/
def EventQueue.dequeue (q : EventQueue) : Option Record × EventQueue :=
  if q.count = 0 then (none, q)
  else
    (q.slot q.head.val,
      { slots := q.slots.set q.head.val none, head := q.head + 1, tail := q.tail, count := q.count - 1 })

/-- `Trace(rec)`: an Enqueue whose result is discarded (00_scope.md R10). -/
def State.trace (s : State) (r : Record) : State :=
  { s with queue := (s.queue.enqueue s.params.qLive.toNat r).2 }

/-! ### The interfaces -/

/-- `GpioReq`: one request to the GPIO driver (00_scope.md R10, 10_state.md R33; what the driver does with it is outside, log 25). -/
def State.gpioReq (s : State) (r : GpioRequest) : State := { s with gpioLog := s.gpioLog ++ [r] }

/-- `GpioQuery(kind, v)`: the driver's answer, a fresh free value, and the state after it (10_state.md R34; log 5). -/
def State.gpioQuery (s : State) (k : QueryKind) (v : Byte) : Byte × State :=
  (Config.gpioAnswer s.draws k v,
    { s with draws := s.draws + 1, queryLog := s.queryLog ++ [{ kind := k, arg := v }] })

/-- `Reply(b)`: the answer to the byte request (00_scope.md R10). -/
def State.reply (s : State) (b : Byte) : State := { s with replies := s.replies ++ [b] }

/-- `port_ok`: whether the device has the one identity that unlocks the port-wide commands (10_state.md R29). -/
def State.portOk (s : State) : Bool := s.identity == s.params.portIdentity.setWidth 8

/-! ### Errors -/

/-- `raise Fault(reason)`: the model-level mark (00_scope.md R10, 60_exceptions.md R207). -/
def State.raiseFault (s : State) (r : Fault) : State := { s with fault := some r }

/-- A rejection: `flags.cmd` is raised and an error trace pushed; no request, no query, no cell written
(41_write_commands.md R121, 42_read_commands.md R162). -/
def State.reject (s : State) (r : Record) : State := s.raiseCmd.trace r

/-- An ID with no action in the phase: nothing, unless the device raises `flags.cmd` there (30_encoding.md R78,
90_conflicts.md C1, `UNMATCHED_RAISES_CMD` of 00_scope.md R7). DESIGN CHOICE (the spec's D7 and D8, log 11). -/
def State.unmatched (s : State) : State := if s.params.unmatchedRaisesCmd then s.raiseCmd else s

/-! ### The handler's step -/

/-- One atomic step of the handler: it has one only when boot has finished and `fault` is none (40_transaction_fsm.md R100;
60_exceptions.md R207; log 7, log 23). -/
def State.handler (s : State) (k : State → State) : Host.Outcome State Fault Refusal :=
  match s.booted, s.fault with
  | false, _ => .refused .beforeBoot
  | true, some r => .fault r
  | true, none => .next (k s)

/-- An access through `sel`: ADDR_RANGE if it is 128 or more, and then nothing else (40_transaction_fsm.md R106; log 7). -/
def State.atSel (s : State) (k : RegAddr → State → State) : State :=
  match regAddr? s.sel with
  | none => s.raiseFault .addrRange
  | some a => k a s

/-- A data byte `v`: stored first, then what it runs (40_transaction_fsm.md R102). -/
def State.dataByte (s : State) (v : Byte) (k : State → State) : State :=
  s.atSel fun a s => k (s.setCell a v)

/-- A byte request: what it runs, then the reply with the cell's value and the second trace record
(40_transaction_fsm.md R103; log 12). -/
def State.byteRequest (s : State) (k : RegAddr → State → State) : State :=
  s.atSel fun a s =>
    let t := k a s
    (t.reply (t.cell a)).trace { kind := .rval, id := t.sel, val := t.cell a }

/-! ### Boot and reset -/

/-- `Boot(identity_in, wdog_reason)` (70_reset_and_hazards.md R230 to R236), as one atomic step. The lists of replies,
dequeued records and queries start anew as `gpio_log` does (log 20); the count of draws goes on (log 5). -/
def State.boot (s : State) : State :=
  { s with
    reg := Memory.load s.params.resetRegs
    sel := s.params.resetSel
    aset := false
    fault := none
    gpioLog := []
    flags :=
      { cfg := !((s.params.knownIdentities.map fun a => a.setWidth 8).contains s.identityIn)
        cmd := false
        err := false
        wdog := s.wdogReason }
    identity := s.identityIn
    queue := s.params.bootRecords.foldl (fun q r => (q.enqueue s.params.qLive.toNat r).2) .empty
    booted := true
    replies := []
    sink := []
    queryLog := [] }

/-- A reset of the whole device: every field at its reset value, the two inputs of the boot to come given from outside
(60_exceptions.md R214; log 21). What is configuration or outside the device stays: the parameters, the schedule, the
driver's count of draws. -/
def State.restart (s : State) (identityIn : Byte) (wdogReason : Bool) : State :=
  { State.reset with
    params := s.params
    identity := identityIn
    identityIn := identityIn
    wdogReason := wdogReason
    schedule := s.schedule
    draws := s.draws }

end Sys2Proof.Machine
end

