-- ==== Sys2Proof/Machine/ReadCommands.lean ====
section
/-! DEFINITION. The read-phase commands (42_read_commands.md): what each computes, the dispatch they share, and each
command's instruction. -/

namespace Sys2Proof.Machine

/-- The validity column of 30_encoding.md R75: whether a read-phase command runs under the port identity only. -/
def readNeedsPort : ReadCmd → Bool
  | .verMajor => false
  | .verMinor => false
  | .getBank => false
  | .getPort0 => true
  | .getPort1 => true
  | .getTrue => false
  | .getDir => false
  | .getStrength => false
  | .getPull => false
  | .getPad => false
  | .status => false

/-! ### The computations, `Compute_m(v)`: the result, and the state after any query -/

/-- VER_MAJOR: the major-version constant (42_read_commands.md R151). -/
def computeVerMajor (_v : Byte) (s : State) : Byte × State := (s.params.versionMajor, s)

/-- VER_MINOR: the minor-version constant (42_read_commands.md R152). -/
def computeVerMinor (_v : Byte) (s : State) : Byte × State := (s.params.versionMinor, s)

/-- GET_BANK: the live state of the bank `v` selects (the spec's D12, log 15) (42_read_commands.md R153). -/
def computeGetBank (v : Byte) (s : State) : Byte × State := s.gpioQuery (.bank (bankOf v)) v

/-- GET_PORT0: the live state of port 0 (the spec's D13, log 15) (42_read_commands.md R154). -/
def computeGetPort0 (v : Byte) (s : State) : Byte × State := s.gpioQuery (.port 0) v

/-- GET_PORT1: the live state of port 1 (the spec's D13, log 15) (42_read_commands.md R155). -/
def computeGetPort1 (v : Byte) (s : State) : Byte × State := s.gpioQuery (.port 1) v

/-- GET_TRUE: the true value of pin `v` (42_read_commands.md R156). -/
def computeGetTrue (v : Byte) (s : State) : Byte × State := s.gpioQuery .trueValue v

/-- GET_DIR: the direction of pin `v` (42_read_commands.md R157). -/
def computeGetDir (v : Byte) (s : State) : Byte × State := s.gpioQuery .dir v

/-- GET_STRENGTH: the drive strength of pin `v` (42_read_commands.md R158). -/
def computeGetStrength (v : Byte) (s : State) : Byte × State := s.gpioQuery .drive v

/-- GET_PULL: the pull state of pin `v` (42_read_commands.md R159). -/
def computeGetPull (v : Byte) (s : State) : Byte × State := s.gpioQuery .pull v

/-- GET_PAD: the raw pad state of pin `v` (42_read_commands.md R160). -/
def computeGetPad (v : Byte) (s : State) : Byte × State := s.gpioQuery .pad v

/-- STATUS: the flags byte; no flag is cleared (42_read_commands.md R161). -/
def computeStatus (_v : Byte) (s : State) : Byte × State := (flagsByte s.params.flagPos s.flags, s)

/-- `Compute_m(v)` of a read-phase command. -/
def readCompute (m : ReadCmd) (v : Byte) (s : State) : Byte × State :=
  match m with
  | .verMajor => computeVerMajor v s
  | .verMinor => computeVerMinor v s
  | .getBank => computeGetBank v s
  | .getPort0 => computeGetPort0 v s
  | .getPort1 => computeGetPort1 v s
  | .getTrue => computeGetTrue v s
  | .getDir => computeGetDir v s
  | .getStrength => computeGetStrength v s
  | .getPull => computeGetPull v s
  | .getPad => computeGetPad v s
  | .status => computeStatus v s

/-- `ReadCommand(m)` at the cell `a` that `sel` names: the one identity check, then the rejection, or the result written
back into the cell and its trace record (42_read_commands.md R150, R162). -/
def readCommand (m : ReadCmd) (a : RegAddr) (s : State) : State :=
  if readNeedsPort m && !s.portOk then s.reject { kind := .rrej, id := (s.params.readId m).toByte, val := s.cell a }
  else
    let r := readCompute m (s.cell a) s
    (r.2.setCell a r.1).trace { kind := .rcmd, id := (s.params.readId m).toByte, val := r.1 }

/-! ### The instructions: a byte request while `sel` is the command's address (log 22) -/

/-- VER_MAJOR (40_transaction_fsm.md R103, 42_read_commands.md R150, R151). -/
def execVerMajor (s : State) : Host.Outcome State Fault Refusal :=
  s.handler fun s => s.byteRequest (readCommand .verMajor)

/-- VER_MINOR (40_transaction_fsm.md R103, 42_read_commands.md R150, R152). -/
def execVerMinor (s : State) : Host.Outcome State Fault Refusal :=
  s.handler fun s => s.byteRequest (readCommand .verMinor)

/-- GET_BANK (40_transaction_fsm.md R103, 42_read_commands.md R150, R153). -/
def execGetBank (s : State) : Host.Outcome State Fault Refusal :=
  s.handler fun s => s.byteRequest (readCommand .getBank)

/-- GET_PORT0 (40_transaction_fsm.md R103, 42_read_commands.md R150, R154). -/
def execGetPort0 (s : State) : Host.Outcome State Fault Refusal :=
  s.handler fun s => s.byteRequest (readCommand .getPort0)

/-- GET_PORT1 (40_transaction_fsm.md R103, 42_read_commands.md R150, R155). -/
def execGetPort1 (s : State) : Host.Outcome State Fault Refusal :=
  s.handler fun s => s.byteRequest (readCommand .getPort1)

/-- GET_TRUE (40_transaction_fsm.md R103, 42_read_commands.md R150, R156). -/
def execGetTrue (s : State) : Host.Outcome State Fault Refusal :=
  s.handler fun s => s.byteRequest (readCommand .getTrue)

/-- GET_DIR (40_transaction_fsm.md R103, 42_read_commands.md R150, R157). -/
def execGetDir (s : State) : Host.Outcome State Fault Refusal :=
  s.handler fun s => s.byteRequest (readCommand .getDir)

/-- GET_STRENGTH (40_transaction_fsm.md R103, 42_read_commands.md R150, R158). -/
def execGetStrength (s : State) : Host.Outcome State Fault Refusal :=
  s.handler fun s => s.byteRequest (readCommand .getStrength)

/-- GET_PULL (40_transaction_fsm.md R103, 42_read_commands.md R150, R159). -/
def execGetPull (s : State) : Host.Outcome State Fault Refusal :=
  s.handler fun s => s.byteRequest (readCommand .getPull)

/-- GET_PAD (40_transaction_fsm.md R103, 42_read_commands.md R150, R160). -/
def execGetPad (s : State) : Host.Outcome State Fault Refusal :=
  s.handler fun s => s.byteRequest (readCommand .getPad)

/-- STATUS (40_transaction_fsm.md R103, 42_read_commands.md R150, R161). -/
def execStatus (s : State) : Host.Outcome State Fault Refusal :=
  s.handler fun s => s.byteRequest (readCommand .status)

end Sys2Proof.Machine
end

