-- ==== Sys2Proof/Machine/WriteCommands.lean ====
section
/-! DEFINITION. The write-phase commands (41_write_commands.md): the action of each, the dispatch they share, and each
command's instruction. -/

namespace Sys2Proof.Machine

/-- The validity column of 30_encoding.md R75: whether a write-phase command runs under the port identity only. -/
def writeNeedsPort : WriteCmd → Bool
  | .gpioClr => false
  | .gpioSet => false
  | .bankClr => false
  | .dirOut => false
  | .dirIn => false
  | .drive0 => false
  | .drive1 => false
  | .drive2 => false
  | .drive3 => false
  | .pullUp => false
  | .pullNone => false
  | .pullDown => false
  | .padPrepare => false
  | .padApply => false
  | .port0Dir => true
  | .port0Out => true
  | .port1Dir => true
  | .port1Out => true

/-! ### The actions, `Action_m(v)` -/

/-- GPIO_CLR: drive pin `v` low; `v` is not range-checked (41_write_commands.md R122). -/
def actGpioClr (v : Byte) (s : State) : State := s.gpioReq (.put v 0)

/-- GPIO_SET: drive pin `v` high (41_write_commands.md R123). -/
def actGpioSet (v : Byte) (s : State) : State := s.gpioReq (.put v 1)

/-- BANK_CLR: drive every pin of the selected bank low (41_write_commands.md R124). -/
def actBankClr (v : Byte) (s : State) : State := s.gpioReq (.putMasked (bankMask (bankOf v)) 0)

/-- DIR_OUT: make pin `v` an output (41_write_commands.md R125). -/
def actDirOut (v : Byte) (s : State) : State := s.gpioReq (.setDir v .output)

/-- DIR_IN: make pin `v` an input (41_write_commands.md R126). -/
def actDirIn (v : Byte) (s : State) : State := s.gpioReq (.setDir v .input)

/-- DRIVE0: drive strength level 0 (levels are numbered in ID order: the spec's D28, log 25) (41_write_commands.md R127). -/
def actDrive0 (v : Byte) (s : State) : State := s.gpioReq (.setDrive v 0)

/-- DRIVE1: drive strength level 1 (41_write_commands.md R128). -/
def actDrive1 (v : Byte) (s : State) : State := s.gpioReq (.setDrive v 1)

/-- DRIVE2: drive strength level 2 (41_write_commands.md R129). -/
def actDrive2 (v : Byte) (s : State) : State := s.gpioReq (.setDrive v 2)

/-- DRIVE3: drive strength level 3 (41_write_commands.md R130). -/
def actDrive3 (v : Byte) (s : State) : State := s.gpioReq (.setDrive v 3)

/-- PULL_UP: enable the pull-up (41_write_commands.md R131). -/
def actPullUp (v : Byte) (s : State) : State := s.gpioReq (.setPull v .up)

/-- PULL_NONE: disable both pulls (41_write_commands.md R132). -/
def actPullNone (v : Byte) (s : State) : State := s.gpioReq (.setPull v .none)

/-- PULL_DOWN: enable the pull-down (41_write_commands.md R133). -/
def actPullDown (v : Byte) (s : State) : State := s.gpioReq (.setPull v .down)

/-- PAD_PREPARE: nothing beyond the store, which has put `v` into its cell (the spec's D10, log 13) (41_write_commands.md R134). -/
def actPadPrepare (_v : Byte) (s : State) : State := s

/-- PAD_APPLY: send the prepared byte, the cell of PAD_PREPARE, as pin `v`'s raw pad configuration (the spec's D10, log 13) (41_write_commands.md R135). -/
def actPadApply (v : Byte) (s : State) : State := s.gpioReq (.setPad v (s.cell (s.params.writeId .padPrepare)))

/-- PORT0_DIR: directions of port 0's pins (polarity: the spec's D11, log 14) (41_write_commands.md R136). -/
def actPort0Dir (v : Byte) (s : State) : State := s.gpioReq (.dirMasked (portPins s.params 0 0xFF) (portPins s.params 0 (dirBits s.params v)))

/-- PORT0_OUT: output levels of port 0's pins (41_write_commands.md R137). -/
def actPort0Out (v : Byte) (s : State) : State := s.gpioReq (.putMasked (portPins s.params 0 0xFF) (portPins s.params 0 v))

/-- PORT1_DIR: directions of port 1's pins (shift and polarity: the spec's D11, log 14) (41_write_commands.md R138). -/
def actPort1Dir (v : Byte) (s : State) : State := s.gpioReq (.dirMasked (portPins s.params 1 0xFF) (portPins s.params 1 (dirBits s.params v)))

/-- PORT1_OUT: output levels of port 1's pins (41_write_commands.md R139). -/
def actPort1Out (v : Byte) (s : State) : State := s.gpioReq (.putMasked (portPins s.params 1 0xFF) (portPins s.params 1 v))

/-- `Action_m(v)` of a write-phase command. -/
def writeAction (m : WriteCmd) (v : Byte) (s : State) : State :=
  match m with
  | .gpioClr => actGpioClr v s
  | .gpioSet => actGpioSet v s
  | .bankClr => actBankClr v s
  | .dirOut => actDirOut v s
  | .dirIn => actDirIn v s
  | .drive0 => actDrive0 v s
  | .drive1 => actDrive1 v s
  | .drive2 => actDrive2 v s
  | .drive3 => actDrive3 v s
  | .pullUp => actPullUp v s
  | .pullNone => actPullNone v s
  | .pullDown => actPullDown v s
  | .padPrepare => actPadPrepare v s
  | .padApply => actPadApply v s
  | .port0Dir => actPort0Dir v s
  | .port0Out => actPort0Out v s
  | .port1Dir => actPort1Dir v s
  | .port1Out => actPort1Out v s

/-- `WriteCommand(m, v)`: the one identity check, then the rejection, or the action and its trace record
(41_write_commands.md R120, R121). -/
def writeCommand (m : WriteCmd) (v : Byte) (s : State) : State :=
  if writeNeedsPort m && !s.portOk then s.reject { kind := .wrej, id := (s.params.writeId m).toByte, val := v }
  else (writeAction m v s).trace { kind := .wcmd, id := (s.params.writeId m).toByte, val := v }

/-! ### The instructions: a data byte `v` that lands on the command's address (log 22) -/

/-- GPIO_CLR `v` (40_transaction_fsm.md R102, 41_write_commands.md R120, R122). -/
def execGpioClr (v : Byte) (s : State) : Host.Outcome State Fault Refusal :=
  s.handler fun s => s.dataByte v (writeCommand .gpioClr v)

/-- GPIO_SET `v` (40_transaction_fsm.md R102, 41_write_commands.md R120, R123). -/
def execGpioSet (v : Byte) (s : State) : Host.Outcome State Fault Refusal :=
  s.handler fun s => s.dataByte v (writeCommand .gpioSet v)

/-- BANK_CLR `v` (40_transaction_fsm.md R102, 41_write_commands.md R120, R124). -/
def execBankClr (v : Byte) (s : State) : Host.Outcome State Fault Refusal :=
  s.handler fun s => s.dataByte v (writeCommand .bankClr v)

/-- DIR_OUT `v` (40_transaction_fsm.md R102, 41_write_commands.md R120, R125). -/
def execDirOut (v : Byte) (s : State) : Host.Outcome State Fault Refusal :=
  s.handler fun s => s.dataByte v (writeCommand .dirOut v)

/-- DIR_IN `v` (40_transaction_fsm.md R102, 41_write_commands.md R120, R126). -/
def execDirIn (v : Byte) (s : State) : Host.Outcome State Fault Refusal :=
  s.handler fun s => s.dataByte v (writeCommand .dirIn v)

/-- DRIVE0 `v` (40_transaction_fsm.md R102, 41_write_commands.md R120, R127). -/
def execDrive0 (v : Byte) (s : State) : Host.Outcome State Fault Refusal :=
  s.handler fun s => s.dataByte v (writeCommand .drive0 v)

/-- DRIVE1 `v` (40_transaction_fsm.md R102, 41_write_commands.md R120, R128). -/
def execDrive1 (v : Byte) (s : State) : Host.Outcome State Fault Refusal :=
  s.handler fun s => s.dataByte v (writeCommand .drive1 v)

/-- DRIVE2 `v` (40_transaction_fsm.md R102, 41_write_commands.md R120, R129). -/
def execDrive2 (v : Byte) (s : State) : Host.Outcome State Fault Refusal :=
  s.handler fun s => s.dataByte v (writeCommand .drive2 v)

/-- DRIVE3 `v` (40_transaction_fsm.md R102, 41_write_commands.md R120, R130). -/
def execDrive3 (v : Byte) (s : State) : Host.Outcome State Fault Refusal :=
  s.handler fun s => s.dataByte v (writeCommand .drive3 v)

/-- PULL_UP `v` (40_transaction_fsm.md R102, 41_write_commands.md R120, R131). -/
def execPullUp (v : Byte) (s : State) : Host.Outcome State Fault Refusal :=
  s.handler fun s => s.dataByte v (writeCommand .pullUp v)

/-- PULL_NONE `v` (40_transaction_fsm.md R102, 41_write_commands.md R120, R132). -/
def execPullNone (v : Byte) (s : State) : Host.Outcome State Fault Refusal :=
  s.handler fun s => s.dataByte v (writeCommand .pullNone v)

/-- PULL_DOWN `v` (40_transaction_fsm.md R102, 41_write_commands.md R120, R133). -/
def execPullDown (v : Byte) (s : State) : Host.Outcome State Fault Refusal :=
  s.handler fun s => s.dataByte v (writeCommand .pullDown v)

/-- PAD_PREPARE `v` (40_transaction_fsm.md R102, 41_write_commands.md R120, R134). -/
def execPadPrepare (v : Byte) (s : State) : Host.Outcome State Fault Refusal :=
  s.handler fun s => s.dataByte v (writeCommand .padPrepare v)

/-- PAD_APPLY `v` (40_transaction_fsm.md R102, 41_write_commands.md R120, R135). -/
def execPadApply (v : Byte) (s : State) : Host.Outcome State Fault Refusal :=
  s.handler fun s => s.dataByte v (writeCommand .padApply v)

/-- PORT0_DIR `v` (40_transaction_fsm.md R102, 41_write_commands.md R120, R136). -/
def execPort0Dir (v : Byte) (s : State) : Host.Outcome State Fault Refusal :=
  s.handler fun s => s.dataByte v (writeCommand .port0Dir v)

/-- PORT0_OUT `v` (40_transaction_fsm.md R102, 41_write_commands.md R120, R137). -/
def execPort0Out (v : Byte) (s : State) : Host.Outcome State Fault Refusal :=
  s.handler fun s => s.dataByte v (writeCommand .port0Out v)

/-- PORT1_DIR `v` (40_transaction_fsm.md R102, 41_write_commands.md R120, R138). -/
def execPort1Dir (v : Byte) (s : State) : Host.Outcome State Fault Refusal :=
  s.handler fun s => s.dataByte v (writeCommand .port1Dir v)

/-- PORT1_OUT `v` (40_transaction_fsm.md R102, 41_write_commands.md R120, R139). -/
def execPort1Out (v : Byte) (s : State) : Host.Outcome State Fault Refusal :=
  s.handler fun s => s.dataByte v (writeCommand .port1Out v)

end Sys2Proof.Machine
end

