-- ==== Sys2Proof/Machine/BusEvents.lean ====
section
/-! DEFINITION. The meanings of the bus events (40_transaction_fsm.md) and of the background loop's Dequeue
(43_event_queue.md). -/

namespace Sys2Proof.Machine

/-- RX_ADDR: the byte becomes the selected address, whatever its value (40_transaction_fsm.md R101). -/
def execRxAddr (b : Byte) (s : State) : Host.Outcome State Fault Refusal :=
  s.handler fun s => { s with sel := b, aset := true }

/-- What a stored data byte runs: the write-phase command of `sel`, if any (40_transaction_fsm.md R102, 30_encoding.md R77). -/
def runWritePhase (v : Byte) (s : State) : State :=
  match s.params.wcmd s.sel with
  | some m => writeCommand m v s
  | none => s.unmatched

/-- RX_DATA: the byte is stored, then the write-phase command of `sel` runs, if any (40_transaction_fsm.md R102). -/
def execRxData (v : Byte) (s : State) : Host.Outcome State Fault Refusal :=
  s.handler fun s => s.dataByte v (runWritePhase v)

/-- What a byte request runs: the read-phase command of `sel`, if any (40_transaction_fsm.md R103, 30_encoding.md R77). -/
def runReadPhase (a : RegAddr) (s : State) : State :=
  match s.params.rcmd s.sel with
  | some m => readCommand m a s
  | none => s.unmatched

/-- REQ: the read-phase command of `sel` runs, if any; the cell is the reply (40_transaction_fsm.md R103). -/
def execReq (s : State) : Host.Outcome State Fault Refusal :=
  s.handler fun s => s.byteRequest runReadPhase

/-- FIN: the transaction is over; `sel` stays (40_transaction_fsm.md R104). -/
def execFin (s : State) : Host.Outcome State Fault Refusal :=
  s.handler fun s => { s with aset := false }

/-- What a Dequeue leaves: the queue without its oldest record, which goes to the sink (43_event_queue.md R184, R187). -/
def State.dequeue (s : State) : State :=
  let r := s.queue.dequeue
  { s with queue := r.2, sink := s.sink ++ r.1.toList }

/-- The text the background loop writes to its console, a line per dequeued record (43_event_queue.md R187). -/
def State.consoleLines (s : State) : List (List Byte) := s.sink.map Config.render

/-- DEQ: one Dequeue of the background loop; it needs boot to have finished (70_reset_and_hazards.md R236), not `fault` to
be none (10_state.md R32) (43_event_queue.md R184). -/
def execDeq (s : State) : Host.Outcome State Fault Refusal :=
  match s.booted with
  | false => .refused .beforeBoot
  | true => .next s.dequeue

end Sys2Proof.Machine
end

