-- ==== Sys2Proof/Machine/Dispatch.lean ====
section
/-! DEFINITION. One arm per instruction. -/

namespace Sys2Proof.Machine

def exec (i : Instr) (s : State) : Host.Outcome State Fault Refusal :=
  match i with
  | .rxAddr b => Sys2Proof.Machine.execRxAddr b s
  | .rxData v => Sys2Proof.Machine.execRxData v s
  | .req => Sys2Proof.Machine.execReq s
  | .fin => Sys2Proof.Machine.execFin s
  | .deq => Sys2Proof.Machine.execDeq s
  | .gpioClr v => Sys2Proof.Machine.execGpioClr v s
  | .gpioSet v => Sys2Proof.Machine.execGpioSet v s
  | .bankClr v => Sys2Proof.Machine.execBankClr v s
  | .dirOut v => Sys2Proof.Machine.execDirOut v s
  | .dirIn v => Sys2Proof.Machine.execDirIn v s
  | .drive0 v => Sys2Proof.Machine.execDrive0 v s
  | .drive1 v => Sys2Proof.Machine.execDrive1 v s
  | .drive2 v => Sys2Proof.Machine.execDrive2 v s
  | .drive3 v => Sys2Proof.Machine.execDrive3 v s
  | .pullUp v => Sys2Proof.Machine.execPullUp v s
  | .pullNone v => Sys2Proof.Machine.execPullNone v s
  | .pullDown v => Sys2Proof.Machine.execPullDown v s
  | .padPrepare v => Sys2Proof.Machine.execPadPrepare v s
  | .padApply v => Sys2Proof.Machine.execPadApply v s
  | .port0Dir v => Sys2Proof.Machine.execPort0Dir v s
  | .port0Out v => Sys2Proof.Machine.execPort0Out v s
  | .port1Dir v => Sys2Proof.Machine.execPort1Dir v s
  | .port1Out v => Sys2Proof.Machine.execPort1Out v s
  | .verMajor => Sys2Proof.Machine.execVerMajor s
  | .verMinor => Sys2Proof.Machine.execVerMinor s
  | .getBank => Sys2Proof.Machine.execGetBank s
  | .getPort0 => Sys2Proof.Machine.execGetPort0 s
  | .getPort1 => Sys2Proof.Machine.execGetPort1 s
  | .getTrue => Sys2Proof.Machine.execGetTrue s
  | .getDir => Sys2Proof.Machine.execGetDir s
  | .getStrength => Sys2Proof.Machine.execGetStrength s
  | .getPull => Sys2Proof.Machine.execGetPull s
  | .getPad => Sys2Proof.Machine.execGetPad s
  | .status => Sys2Proof.Machine.execStatus s

end Sys2Proof.Machine
end

