-- ==== Sys2Proof/Machine/Fetch.lean ====
section
/-! DEFINITION. What the next step is to do: the machine fetches no instruction from a memory (20_memory.md R64), it takes
the next input of its schedule. -/

namespace Sys2Proof.Machine

/-- What the next step does: reach a state without running an instruction, or run an instruction from a state. -/
inductive Pending where
  | settle (t : State)
  | run (i : Instr) (t : State)

/-- Whether an event is one of the handler's (00_scope.md R11); Dequeue is the background loop's. -/
def forHandler : Event → Bool
  | .rx _ => true
  | .req => true
  | .fin => true
  | .deq => false

/-- The fetched event and the transaction state it meets. -/
def State.fetchOf (s : State) (e : Event) : Fetch := { aset := s.aset, sel := s.sel, event := e }

/-- What the next step does. Before boot has finished it boots (70_reset_and_hazards.md R230; log 3). Then it takes the next
input (log 2): none, and nothing happens; a reset restarts the device (60_exceptions.md R214; log 21); an event runs the
instruction it is, except that an event for the handler finds no handler while `fault` is set, and passes by
(10_state.md R32, 60_exceptions.md R207; log 4). -/
def State.pending (s : State) : Pending :=
  match s.booted, s.schedule with
  | false, _ => .settle s.boot
  | true, [] => .settle s
  | true, .reset identityIn wdogReason :: rest => .settle ({ s with schedule := rest }.restart identityIn wdogReason)
  | true, .event e :: rest =>
    if forHandler e && s.fault.isSome then .settle { s with schedule := rest }
    else .run (decode s.params (s.fetchOf e)) { s with schedule := rest }

/-- The state in which the next step runs the command word's instruction: booted, no fault, `sel` at the word's ID, and the
instruction's event next in the schedule; a data byte finds `aset` set. A word that names no command is a data byte for
that address (log 3, log 24). -/
def State.placeCommand (s : State) (id v : Byte) : State :=
  let e :=
    match decodeCommand s.params [id, v] with
    | .ok (i, _) => (encode s.params id i).event
    | .error _ => .rx v
  { s with
    booted := true
    fault := none
    sel := id
    aset := match e with
      | .rx _ => true
      | _ => s.aset
    schedule := .event e :: s.schedule }

/-- The bytes of a table word placed for the next step. -/
def State.placeTableWord (s : State) (nbits w : Nat) : State :=
  match tableBytes nbits w with
  | [id, v] => s.placeCommand id v
  | _ => s

end Sys2Proof.Machine
end

