-- ==== Sys2Proof/Machine/Step.lean ====
section
/-! DEFINITION. One step of the machine. -/

namespace Sys2Proof.Machine

/-- One step: what is pending, run. -/
def step (s : State) : Host.Outcome State Fault Refusal :=
  match s.pending with
  | .settle t => .next t
  | .run i t => exec i t

/-- `s` with the instruction of a table word placed where `step` takes its next instruction (log 3, log 24). -/
def State.withFetchWord (s : State) (nbits w : Nat) : State := s.placeTableWord nbits w

end Sys2Proof.Machine
end

