-- ==== Sys2Proof/WellFormed.lean ====
section
/-! DEFINITION. When an instruction is the one an event is at a given address (30_encoding.md R77). -/

namespace Sys2Proof

/-- The instruction is one an event can be when `sel` is the address in force: a command stands at its own ID, RX_DATA
at an address that is no write-phase ID and REQ at one that is no read-phase ID. Every operand value is legal
(41_write_commands.md R122: `v` is not checked). -/
def Instr.WellFormed (p : Params) (sel : Byte) : Instr → Bool
  | .rxAddr _ => true
  | .rxData _ => p.wcmd sel == none
  | .req => p.rcmd sel == none
  | .fin => true
  | .deq => true
  | .gpioClr _ => sel == (p.writeId .gpioClr).toByte
  | .gpioSet _ => sel == (p.writeId .gpioSet).toByte
  | .bankClr _ => sel == (p.writeId .bankClr).toByte
  | .dirOut _ => sel == (p.writeId .dirOut).toByte
  | .dirIn _ => sel == (p.writeId .dirIn).toByte
  | .drive0 _ => sel == (p.writeId .drive0).toByte
  | .drive1 _ => sel == (p.writeId .drive1).toByte
  | .drive2 _ => sel == (p.writeId .drive2).toByte
  | .drive3 _ => sel == (p.writeId .drive3).toByte
  | .pullUp _ => sel == (p.writeId .pullUp).toByte
  | .pullNone _ => sel == (p.writeId .pullNone).toByte
  | .pullDown _ => sel == (p.writeId .pullDown).toByte
  | .padPrepare _ => sel == (p.writeId .padPrepare).toByte
  | .padApply _ => sel == (p.writeId .padApply).toByte
  | .port0Dir _ => sel == (p.writeId .port0Dir).toByte
  | .port0Out _ => sel == (p.writeId .port0Out).toByte
  | .port1Dir _ => sel == (p.writeId .port1Dir).toByte
  | .port1Out _ => sel == (p.writeId .port1Out).toByte
  | .verMajor => sel == (p.readId .verMajor).toByte
  | .verMinor => sel == (p.readId .verMinor).toByte
  | .getBank => sel == (p.readId .getBank).toByte
  | .getPort0 => sel == (p.readId .getPort0).toByte
  | .getPort1 => sel == (p.readId .getPort1).toByte
  | .getTrue => sel == (p.readId .getTrue).toByte
  | .getDir => sel == (p.readId .getDir).toByte
  | .getStrength => sel == (p.readId .getStrength).toByte
  | .getPull => sel == (p.readId .getPull).toByte
  | .getPad => sel == (p.readId .getPad).toByte
  | .status => sel == (p.readId .status).toByte

end Sys2Proof
end

