-- ==== Sys2Proof/Safety.lean ====
section
/-! DEFINITION. The terms claims are made in: when the handler has a step, the block's invariant, and what a data byte and
a byte request leave, read from outside. -/

namespace Sys2Proof.Machine

/-- The handler has a step (40_transaction_fsm.md R100). -/
abbrev State.Ready (s : State) : Prop := s.booted = true ∧ s.fault = none

/-- The queue's invariants (10_state.md R31): at most `live` records, the tail after the last of them, and a record in
exactly the `count` slots from the head. -/
abbrev EventQueue.Wf (live : Nat) (q : EventQueue) : Prop :=
  q.count ≤ live
  ∧ q.tail.val = (q.head.val + q.count) % 64
  ∧ ∀ i : Fin 64, (q.slot (q.head.val + i.val)).isSome = decide (i.val < q.count)

/-- The storage is in form: the register file canonical (log 28), the queue within its invariants (10_state.md R31). -/
abbrev State.StorageWf (s : State) : Prop := s.reg.wf = true ∧ s.queue.Wf s.params.qLive.toNat

/-- Whether an address is one of the recognised identities (00_scope.md R7, 10_state.md R29). -/
def Known (p : Params) (identity : Byte) : Prop := ∃ a ∈ p.knownIdentities, a.setWidth 8 = identity

/-- The block's invariant. Storage in form; admissible parameters (30_encoding.md R76); `err` never set (10_state.md R26);
once booted the identity is the boot input, `cfg` says whether it is unknown and `wdog` the reset reason
(70_reset_and_hazards.md R231, R232, 10_state.md R27, R29); `cmd` only where some command could be rejected
(60_exceptions.md R201); the fault mark only while `sel` is out of range (60_exceptions.md R207). -/
structure State.Inv (s : State) : Prop where
  storage : s.StorageWf
  admissible : s.params.Admissible
  noErr : s.flags.err = false
  identityLatched : s.booted = true → s.identity = s.identityIn
  cfgFlag : s.booted = true → (s.flags.cfg = true ↔ ¬ Known s.params s.identity)
  wdogFlag : s.booted = true → s.flags.wdog = s.wdogReason
  cmdFlag : s.flags.cmd = true → s.portOk = false ∨ s.params.unmatchedRaisesCmd = true
  faultAddress : s.fault ≠ none → 128 ≤ s.sel.toNat

/-- What no handler step and no Dequeue writes: the parameters, the identity and the boot inputs, the boot mark, and the
inputs still to come. -/
structure SameSetup (s t : State) : Prop where
  params : t.params = s.params
  identity : t.identity = s.identity
  booted : t.booted = s.booted
  identityIn : t.identityIn = s.identityIn
  wdogReason : t.wdogReason = s.wdogReason
  schedule : t.schedule = s.schedule

/-- A data byte `v` was stored at `sel`, `reqs` went to the GPIO driver, `flags.cmd` was raised if `cmd`, and `recs` were
traced, of which the queue kept those that fitted (43_event_queue.md R181, R182). Nothing else changed. -/
structure DataByteRan (s t : State) (v : Byte) (reqs : List GpioRequest) (cmd : Bool) (recs : List Record) : Prop where
  cell : Memory.read t.reg s.sel.toNat = v
  otherCells : ∀ a, a ≠ s.sel.toNat → Memory.read t.reg a = Memory.read s.reg a
  requests : t.gpioLog = s.gpioLog ++ reqs
  flags : t.flags = { s.flags with cmd := s.flags.cmd || cmd }
  records : t.queue.contents = (s.queue.contents ++ recs).take s.params.qLive.toNat
  sel : t.sel = s.sel
  aset : t.aset = s.aset
  fault : t.fault = s.fault
  replies : t.replies = s.replies
  sink : t.sink = s.sink
  queries : t.queryLog = s.queryLog
  draws : t.draws = s.draws
  setup : SameSetup s t

/-- A byte request was answered with `r`, which is also what the cell at `sel` now holds; the queries `qs` went to the GPIO driver,
`flags.cmd` was raised if `cmd`, and `recs` were traced, of which the queue kept those that fitted. Nothing else changed. -/
structure ByteRequestRan (s t : State) (r : Byte) (qs : List GpioQuery) (cmd : Bool) (recs : List Record) : Prop where
  reply : t.replies = s.replies ++ [r]
  cell : Memory.read t.reg s.sel.toNat = r
  otherCells : ∀ a, a ≠ s.sel.toNat → Memory.read t.reg a = Memory.read s.reg a
  requests : t.gpioLog = s.gpioLog
  flags : t.flags = { s.flags with cmd := s.flags.cmd || cmd }
  records : t.queue.contents = (s.queue.contents ++ recs).take s.params.qLive.toNat
  sel : t.sel = s.sel
  aset : t.aset = s.aset
  fault : t.fault = s.fault
  sink : t.sink = s.sink
  queries : t.queryLog = s.queryLog ++ qs
  draws : t.draws = s.draws + qs.length
  setup : SameSetup s t

/-- A cell's value after reset: the last byte that RESET_REGS gives its address, 0 where it gives none (00_scope.md R7,
70_reset_and_hazards.md R230; log 6). -/
def resetCell (p : Params) (a : RegAddr) : Byte := (p.resetRegs.reverse.lookup a.toNat).getD 0

/-- Boot has just ended, under these parameters and with these inputs: every piece of state of 10_state.md R36 at its reset value
(70_reset_and_hazards.md R230 to R236), and the model's histories empty (log 20). -/
structure JustBooted (p : Params) (identityIn : Byte) (wdogReason : Bool) (t : State) : Prop where
  params : t.params = p
  cells : ∀ a : RegAddr, t.cell a = resetCell p a
  sel : t.sel = p.resetSel
  aset : t.aset = false
  cfg : t.flags.cfg = true ↔ ¬ Known p identityIn
  cmd : t.flags.cmd = false
  err : t.flags.err = false
  wdog : t.flags.wdog = wdogReason
  identity : t.identity = identityIn
  records : t.queue.contents = p.bootRecords.take p.qLive.toNat
  noRecords : p.bootRecords = [] → t.queue = EventQueue.empty
  storage : t.StorageWf
  fault : t.fault = none
  gpioLog : t.gpioLog = []
  booted : t.booted = true
  identityKept : t.identityIn = identityIn
  wdogKept : t.wdogReason = wdogReason
  replies : t.replies = []
  sink : t.sink = []
  queryLog : t.queryLog = []

/-- The query a getter makes for its argument `v` (42_read_commands.md R153 to R160; the bank selection is the spec's D12,
log 15); the other read-phase commands make none. -/
def getterKind (v : Byte) : ReadCmd → Option QueryKind
  | .verMajor => none
  | .verMinor => none
  | .getBank => some (if v.toNat < 10 then .bank 0 else .bank 1)
  | .getPort0 => some (.port 0)
  | .getPort1 => some (.port 1)
  | .getTrue => some .trueValue
  | .getDir => some .dir
  | .getStrength => some .drive
  | .getPull => some .pull
  | .getPad => some .pad
  | .status => none

/-- The handler is ready, the storage in form, and the address in force is `id`. -/
structure State.AtId (s : State) (id : RegAddr) : Prop where
  ready : s.Ready
  storage : s.StorageWf
  sel : s.sel = RegAddr.toByte id

/-- The instruction answers a next state in which the data byte `v` at the command's address `id` is stored, exactly the
requests `reqs` went out, and the command's trace record was pushed; `flags.cmd` is as it was. -/
def WriteCompletes (i : Instr) (s : State) (id : RegAddr) (v : Byte) (reqs : List GpioRequest) : Prop :=
  ∃ t, exec i s = .next t
    ∧ DataByteRan s t v reqs false [{ kind := .wcmd, id := RegAddr.toByte id, val := v }]

/-- The instruction answers a next state in which the data byte `v` is stored, nothing went to the GPIO driver, `flags.cmd`
is raised and the error trace was pushed. -/
def WriteRejected (i : Instr) (s : State) (id : RegAddr) (v : Byte) : Prop :=
  ∃ t, exec i s = .next t
    ∧ DataByteRan s t v [] true [{ kind := .wrej, id := RegAddr.toByte id, val := v }]

/-- The instruction answers a next state in which `r` is the reply and the cell at the command's address `id`, the queries
`qs` were made, and two trace records, both with `r`, were pushed; `flags.cmd` is as it was. -/
def ReadCompletes (i : Instr) (s : State) (id : RegAddr) (r : Byte) (qs : List GpioQuery) : Prop :=
  ∃ t, exec i s = .next t
    ∧ ByteRequestRan s t r qs false
        [{ kind := .rcmd, id := RegAddr.toByte id, val := r }, { kind := .rval, id := RegAddr.toByte id, val := r }]

/-- The instruction answers a next state in which the cell is unchanged and is the reply, no query was made, `flags.cmd` is
raised, and the error trace and the value trace were pushed. -/
def ReadRejected (i : Instr) (s : State) (id : RegAddr) : Prop :=
  ∃ t, exec i s = .next t
    ∧ ByteRequestRan s t (s.cell id) [] true
        [{ kind := .rrej, id := RegAddr.toByte id, val := s.cell id },
         { kind := .rval, id := RegAddr.toByte id, val := s.cell id }]

/-- The next input, if there is one, is no reset. -/
def NoResetNext (s : State) : Prop := ∀ identityIn wdogReason rest, s.schedule ≠ .reset identityIn wdogReason :: rest

/-- The inputs still to come hold no reset. -/
def NoReset (s : State) : Prop := ∀ identityIn wdogReason, Input.reset identityIn wdogReason ∉ s.schedule

end Sys2Proof.Machine
end

