-- ==== Sys2Proof/Certificates/Slice0/Obligations.lean ====
section
/-! DEFINITION. The statements for the provers. -/

open Sys2Proof Sys2Proof.Machine

/-- Decoding the event an instruction is encoded as gives the instruction back (30_encoding.md section 3,
30_encoding.md section 4). For all admissible parameters, every address in force and every well-formed
instruction, with every value of its operand byte: decode of encode is the instruction. The encoder is the
model's own (log 22). -/
def Obligations.DecodeEncodeRoundTrip : Prop :=
  ∀ (p : Params) (sel : Byte) (i : Instr), p.Admissible → i.WellFormed p sel = true → decode p (encode p sel i) = i

/-- Every event is some instruction, well-formed at its address, and encoding it gives the event back
(30_encoding.md section 4). For all parameters and every event with the transaction state it meets: the decoded
instruction is well-formed at that address; encoding it gives the same address and event, and for a byte
received the same aset. No event is illegal. The encoder is the model's own (log 22). -/
def Obligations.EncodeDecodeRoundTrip : Prop :=
  ∀ (p : Params) (f : Fetch),
    (decode p f).WellFormed p f.sel = true
    ∧ (encode p f.sel (decode p f)).sel = f.sel
    ∧ (encode p f.sel (decode p f)).event = f.event
    ∧ (∀ b, f.event = .rx b → encode p f.sel (decode p f) = f)

/-- Decoding a command word gives the command back, and the bytes after it (30_encoding.md section 2, 30_encoding.md
section 3). For all admissible parameters, every command of either phase, every data byte and any bytes after
the word: decodeCommand of the word's bytes gives the command's instruction and those bytes. The word's layout
is the model's choice (log 24). -/
def Obligations.CommandWordRoundTrip : Prop :=
  ∀ (p : Params) (c : Command) (v : Byte) (rest : List Byte), p.Admissible →
    decodeCommand p (encodeCommand p c v ++ rest) = .ok (c.instr v, rest)

/-- All 29 command IDs are pairwise distinct, and four are 1, 11, 80 and 100 (30_encoding.md section 3). For all
admissible parameters: two commands, of whichever phase, with the same ID byte are the same command; every ID is
below 128; VER_MAJOR is 1, GPIO_SET 11, PORT0_DIR 80 (the spec's D3, log 10) and STATUS 100. The device's own
parameters are admissible. -/
def Obligations.CommandIdsDistinctAndFixed : Prop :=
  (∀ (p : Params) (c d : Command), p.Admissible →
      RegAddr.toByte (p.commandId c) = RegAddr.toByte (p.commandId d) → c = d)
    ∧ (∀ (p : Params) (c : Command), (RegAddr.toByte (p.commandId c)).toNat < 128)
    ∧ (∀ p : Params, p.readId .verMajor = 1 ∧ p.writeId .gpioSet = 11 ∧ p.writeId .port0Dir = 80 ∧ p.readId .status = 100)
    ∧ Config.params.Admissible

/-- Events written out from the spec's encoding decode to the instructions they stand for (30_encoding.md section 1,
30_encoding.md section 3). Whatever the parameters: a byte in IDLE is an address byte; a byte at address 11 or
80 in ADDR_SET is GPIO_SET or PORT0_DIR (the spec's D3, log 10); a request at 1 or 100 is VER_MAJOR or STATUS,
for either aset; FIN and DEQ are themselves; the command words 11 5, 80 255, 1 and 100 are those commands. -/
def Obligations.EventWordsDecode : Prop :=
  ∀ (p : Params) (sel b : Byte) (aset : Bool),
    decode p ⟨false, sel, .rx b⟩ = .rxAddr b
    ∧ decode p ⟨true, 11, .rx b⟩ = .gpioSet b
    ∧ decode p ⟨true, 80, .rx b⟩ = .port0Dir b
    ∧ decode p ⟨aset, 1, .req⟩ = .verMajor
    ∧ decode p ⟨aset, 100, .req⟩ = .status
    ∧ decode p ⟨aset, sel, .fin⟩ = .fin
    ∧ decode p ⟨aset, sel, .deq⟩ = .deq
    ∧ decodeCommand p [11, 5] = .ok (.gpioSet 5, [])
    ∧ decodeCommand p [80, 255] = .ok (.port0Dir 255, [])
    ∧ decodeCommand p [1] = .ok (.verMajor, [])
    ∧ decodeCommand p [100] = .ok (.status, [])

/-- A step runs the instruction its next event decodes to (00_scope.md section 4, 40_transaction_fsm.md section 1).
When boot has finished, the next input is an event, and the event is a Dequeue or no fault is set, step is exec
of the decoded instruction at the state without that input. The schedule is the model's own (log 2). -/
def Obligations.StepRunsDecodedInstruction : Prop :=
  ∀ (s : State) (e : Event) (rest : List Input),
    s.booted = true → s.schedule = .event e :: rest → (e = .deq ∨ s.fault = none) →
    step s = exec (decode s.params ⟨s.aset, s.sel, e⟩) { s with schedule := rest }

/-- A command word placed for the next step is the instruction that step runs (30_encoding.md section 3). For every
table word the decoder reads an instruction from, the step from the reset state with the word placed is exec of
that instruction at a booted state without fault whose address in force is the word's first byte. The placing is
the model's own (log 3, log 24). -/
def Obligations.TableWordRunsNext : Prop :=
  ∀ (nbits w : Nat) (i : Instr), decodeTableWord nbits w = some i →
    ∃ t : State, t.Ready ∧ t.sel = BitVec.ofNat 8 (w % 2 ^ nbits) ∧ step (State.reset.withFetchWord nbits w) = exec i t

/-- With no input a step changes nothing; while a fault is set a bus event passes by (10_state.md section 6,
60_exceptions.md section 2). When boot has finished: with an empty schedule step answers the same state (log 2);
with a fault set and a bus event next, step answers the state without that input and nothing else changed (log
4). Both are the model's choice. -/
def Obligations.StepWithoutEventForHandler : Prop :=
  ∀ s : State, s.booted = true →
    (s.schedule = [] → step s = .next s)
    ∧ (∀ e rest, s.schedule = .event e :: rest → e ≠ .deq → s.fault ≠ none → step s = .next { s with schedule := rest })

/-- Boot clears every flag and sets wdog exactly if the reset reason was a watchdog timeout (R231). From every state
before boot, the step boots: cmd and err are false, wdog is the reset reason, cfg is set exactly if the identity
input is no known identity, and the identity is that input. -/
def Obligations.BootClearsFlagsAndSetsWatchdog : Prop :=
  ∀ s : State, s.booted = false →
    ∃ t, step s = .next t ∧ t.booted = true
      ∧ t.flags.cmd = false ∧ t.flags.err = false ∧ t.flags.wdog = s.wdogReason
      ∧ (t.flags.cfg = true ↔ ¬ Known s.params s.identityIn) ∧ t.identity = s.identityIn

/-- Boot leaves every piece of state at its reset value (70_reset_and_hazards.md section 1, 10_state.md section 8).
From every state before boot, the step leaves: IDLE, no fault, an empty GPIO log, cmd and err clear, wdog the
reset reason, cfg set exactly if the identity input is unknown, the identity that input; every cell and sel at
the value RESET_REGS gives, 0 at its default (the spec's D17, log 6); the queue in form with the boot records
that fit (its D35, log 19); the model's histories empty (log 20); the parameters, the boot inputs, the inputs to
come and the count of draws unchanged. -/
def Obligations.BootRebuildsState : Prop :=
  ∀ s : State, s.booted = false →
    ∃ t, step s = .next t ∧ JustBooted s.params s.identityIn s.wdogReason t ∧ t.schedule = s.schedule ∧ t.draws = s.draws
      ∧ (s.params.resetRegs = [] → ∀ a, Memory.read t.reg a = 0)

/-- A reset between two steps rebuilds the state through a new boot (60_exceptions.md section 3,
70_reset_and_hazards.md section 1). When boot has finished and a reset is the next input, whether or not a fault
is set, two steps later the device has just booted with the reset's identity and reason: every cell and sel as
RESET_REGS gives them (the spec's D17, log 6), IDLE, no fault, empty GPIO log, cmd and err clear, wdog the reset
reason, cfg set exactly if the identity is unknown, the queue holding just the boot records that fit (its D35,
log 19), the model's histories empty (log 20). The parameters, the count of draws and the inputs after the reset
are as they were. The reset input is the model's own (log 21). -/
def Obligations.ResetRestartsDevice : Prop :=
  ∀ (s : State) (identityIn : Byte) (wdogReason : Bool) (rest : List Input),
    s.booted = true → s.schedule = .reset identityIn wdogReason :: rest →
    ∃ t u, step s = .next t ∧ t.booted = false ∧ step t = .next u
      ∧ JustBooted s.params identityIn wdogReason u ∧ u.schedule = rest ∧ u.draws = s.draws

/-- The state after reset holds the values the spec gives for reset (10_state.md section 8). In the reset state
every cell and sel are 0 (the spec's D17, log 6), aset and every flag are false, the queue is empty, there is no
fault and no GPIO request, boot has not finished, and the identity is the identity input. -/
def Obligations.ResetStateValues : Prop :=
  (∀ a, Memory.read State.reset.reg a = 0) ∧ State.reset.sel = 0 ∧ State.reset.aset = false
    ∧ State.reset.flags = { cfg := false, cmd := false, err := false, wdog := false }
    ∧ State.reset.queue = EventQueue.empty ∧ State.reset.queue.contents = []
    ∧ State.reset.fault = none ∧ State.reset.gpioLog = [] ∧ State.reset.booted = false
    ∧ State.reset.identity = State.reset.identityIn

/-- Every step keeps the block's invariant (10_state.md section 3, 10_state.md section 5, 10_state.md section 6,
60_exceptions.md section 1). From every state with the invariant, whatever the next input, the next state has
it: register file canonical, queue in form, admissible parameters, err never set (the spec's D6, log 9), the
identity latched, cfg and wdog as boot found them, cmd only without the port identity or where
UNMATCHED_RAISES_CMD is set (the spec's D7, log 11), the fault mark only with sel of 128 or more (the spec's D4,
log 7). -/
def Obligations.StepKeepsInvariant : Prop :=
  ∀ s t : State, s.Inv → step s = .next t → t.Inv

/-- The state after reset meets the invariant (10_state.md section 8). State.reset has the invariant that every step
keeps. -/
def Obligations.ResetMeetsInvariant : Prop :=
  State.reset.Inv

/-- Flags are set and never cleared at run time (R27). Once boot has finished, a step that takes no reset leaves
every set flag set; all four flags are false in the reset state; the boot step sets wdog to the reset reason and
cfg exactly if the identity input is unknown. -/
def Obligations.StickyFlags : Prop :=
  (∀ s t : State, s.booted = true → NoResetNext s → step s = .next t →
      (s.flags.cfg = true → t.flags.cfg = true) ∧ (s.flags.cmd = true → t.flags.cmd = true)
      ∧ (s.flags.err = true → t.flags.err = true) ∧ (s.flags.wdog = true → t.flags.wdog = true))
    ∧ State.reset.flags = { cfg := false, cmd := false, err := false, wdog := false }
    ∧ (∀ s t : State, s.booted = false → step s = .next t →
        t.flags.wdog = s.wdogReason ∧ (t.flags.cfg = true ↔ ¬ Known s.params s.identityIn))

/-- Boot latches the identity, nothing changes it after, and an unknown identity never unlocks the port commands
(R29). Boot sets the identity to the identity input; once booted no step but a reset changes it; port_ok says
whether it is the port identity; with admissible parameters an unknown identity makes it false. -/
def Obligations.IdentityLatchedAtBoot : Prop :=
  (∀ s t : State, s.booted = false → step s = .next t → t.identity = s.identityIn)
    ∧ (∀ s t : State, s.booted = true → NoResetNext s → step s = .next t → t.identity = s.identity)
    ∧ (∀ s : State, s.portOk = true ↔ s.identity = s.params.portIdentity.setWidth 8)
    ∧ (∀ s : State, s.params.Admissible → ¬ Known s.params s.identity → s.portOk = false)

/-- No step changes the command table or any other parameter (10_state.md section 7). Whatever the next input, a
reset among them, the parameters are the same after the step. -/
def Obligations.ParametersNeverChange : Prop :=
  ∀ s t : State, step s = .next t → t.params = s.params

/-- Only an address byte writes sel; only an address byte and FIN write aset (10_state.md section 2,
40_transaction_fsm.md section 5). For every instruction that answers a next state: sel is the byte and aset true
after RX_ADDR; sel is unchanged and aset false after FIN; after every other instruction both are unchanged. -/
def Obligations.TransactionStateWriters : Prop :=
  ∀ (i : Instr) (s t : State), exec i s = .next t →
    (∀ b, i = .rxAddr b → t.sel = b ∧ t.aset = true)
    ∧ (i = .fin → t.sel = s.sel ∧ t.aset = false)
    ∧ ((∀ b, i ≠ .rxAddr b) → i ≠ .fin → t.sel = s.sel ∧ t.aset = s.aset)

/-- An instruction changes no register cell but the one sel names; address bytes, FIN and DEQ change none
(10_state.md section 1, 41_write_commands.md section 9). For every instruction that answers a next state from a
canonical register file, every cell but the one at sel reads as before; after RX_ADDR, FIN and DEQ every cell
does. -/
def Obligations.RegisterFileWriters : Prop :=
  ∀ (i : Instr) (s t : State), s.reg.wf = true → exec i s = .next t →
    (∀ a, a ≠ s.sel.toNat → Memory.read t.reg a = Memory.read s.reg a)
    ∧ ((∃ b, i = .rxAddr b) ∨ i = .fin ∨ i = .deq → ∀ a, Memory.read t.reg a = Memory.read s.reg a)

/-- An instruction sends at most one GPIO request, and a port setter without its identity and a read send none
(10_state.md section 6, 10_state.md section 4, 20_memory.md section 5). For every instruction that answers a
next state, the GPIO log is the old log with at most one request after it; with port_ok false the four port
setters, and RX_DATA at their addresses, send none, and no instruction sends a direction mask; a byte request,
an address byte, FIN, DEQ and every read-phase command send none. -/
def Obligations.RequestsOnlyAppended : Prop :=
  ∀ (i : Instr) (s t : State), exec i s = .next t →
    ∃ reqs, t.gpioLog = s.gpioLog ++ reqs ∧ reqs.length ≤ 1
      ∧ (s.portOk = false → ∀ mask value, GpioRequest.dirMasked mask value ∉ reqs)
      ∧ (s.portOk = false → ∀ m ∈ [WriteCmd.port0Dir, .port0Out, .port1Dir, .port1Out], ∀ v : Byte,
          i = m.instr v ∨ i = .rxData v ∧ s.params.wcmd s.sel = some m → reqs = [])
      ∧ ((∃ b, i = .rxAddr b) ∨ i = .fin ∨ i = .deq ∨ i = .req ∨ (∃ m : ReadCmd, i = m.instr) → reqs = [])

/-- Only a use of an address of 128 or more sets the fault mark, and no instruction clears it (60_exceptions.md
section 2, 40_transaction_fsm.md section 5). For every instruction that answers a next state: if no fault was
set and one is after, it is ADDR_RANGE, sel is 128 or more, and the instruction is no address byte, FIN or DEQ;
a fault that was set is still set (the spec's D4, log 7). -/
def Obligations.OnlyOutOfRangeFaults : Prop :=
  ∀ (i : Instr) (s t : State), exec i s = .next t →
    (s.fault = none → t.fault ≠ none →
      t.fault = some .addrRange ∧ 128 ≤ s.sel.toNat ∧ (∀ b, i ≠ .rxAddr b) ∧ i ≠ .fin ∧ i ≠ .deq)
    ∧ (s.fault ≠ none → t.fault = s.fault)

/-- From every state in which the handler has a step, every instruction answers a next state (60_exceptions.md
section 1, 40_transaction_fsm.md section 1). Booted and without fault, every one of the 34 instructions, with
every operand, answers a next state; DEQ does also with a fault set. -/
def Obligations.ReadyInstructionsComplete : Prop :=
  (∀ (i : Instr) (s : State), s.Ready → ∃ t, exec i s = .next t)
    ∧ (∀ s : State, s.booted = true → ∃ t, exec .deq s = .next t)

/-- Before boot no instruction runs; after a fault no handler instruction does (40_transaction_fsm.md section 1,
70_reset_and_hazards.md section 1, 10_state.md section 6). Before boot every instruction is refused under the
name beforeBoot (the spec's D21, log 23); booted with a fault set, every instruction but DEQ answers that fault
(the spec's D4, log 7). -/
def Obligations.HandlerHasNoStepUnlessReady : Prop :=
  (∀ (i : Instr) (s : State), s.booted = false → exec i s = .refused .beforeBoot)
    ∧ (∀ (i : Instr) (s : State) (r : Fault), s.booted = true → s.fault = some r → i ≠ .deq → exec i s = .fault r)

/-- What the event queue holds changes nothing an instruction of the handler does to the rest of the state
(70_reset_and_hazards.md section 2, 43_event_queue.md). For every instruction but DEQ and every two states that
differ only in the queue, the outcomes are next states that differ only in the queue, or the same stop: so a
lost trace record is lost observability only. -/
def Obligations.LostTraceChangesNothingElse : Prop :=
  ∀ (i : Instr) (s : State) (q : EventQueue), i ≠ .deq →
    (∀ t, exec i s = .next t → ∃ q', exec i { s with queue := q } = .next { t with queue := q' })
    ∧ (∀ r, exec i s = .fault r → exec i { s with queue := q } = .fault r)
    ∧ (∀ r, exec i s = .refused r → exec i { s with queue := q } = .refused r)

/-- The 128 cells are independent and each holds the byte written to it (R20). In a canonical register file a cell
holds the byte written to it, every other cell keeps its byte, writes to two cells commute as data, and the form
is kept. From every ready state with such a register file and the address of any cell in force, a data byte from
the master answers a state in which that cell holds the byte, every other cell as it was: no cell is hardwired,
none is read-only to the bus master. -/
def Obligations.RegisterCellsIndependent : Prop :=
  ∀ (s : State) (a b : RegAddr) (v w : Byte), s.reg.wf = true →
    (s.setCell a v).cell a = v
    ∧ (b ≠ a → (s.setCell a v).cell b = s.cell b)
    ∧ (b ≠ a → (s.setCell a v).setCell b w = (s.setCell b w).setCell a v)
    ∧ (s.setCell a v).reg.wf = true
    ∧ (s.Ready → s.sel = RegAddr.toByte a →
        ∃ t, exec (.rxData v) s = .next t ∧ t.cell a = v ∧ ∀ c : RegAddr, c ≠ a → t.cell c = s.cell c)

/-- Enqueue into a queue that is not full accepts the record and puts it last (43_event_queue.md). For a queue in
form with fewer live records than it can hold (64 by the spec's D14, log 16, or 63): the result is true, the
contents are the old contents followed by the record, the count is one more and the head is unchanged, and the
queue stays in form. -/
def Obligations.EnqueueKeepsArrivalOrder : Prop :=
  ∀ (l : QLive) (q : EventQueue) (r : Record), q.Wf l.toNat → q.count < l.toNat →
    (q.enqueue l.toNat r).1 = true
    ∧ (q.enqueue l.toNat r).2.contents = q.contents ++ [r]
    ∧ (q.enqueue l.toNat r).2.count = q.count + 1 ∧ (q.enqueue l.toNat r).2.head = q.head
    ∧ (q.enqueue l.toNat r).2.Wf l.toNat

/-- Enqueue into a full queue returns false and changes nothing, and a traced record is then lost without a flag
(R182). With 64 live records, or as many as the parameter allows, Enqueue answers false and the same queue; a
trace then leaves the whole state as it was, no flag raised. -/
def Obligations.FullQueueDropsNewRecord : Prop :=
  (∀ (q : EventQueue) (r : Record), q.count = 64 → q.enqueue 64 r = (false, q))
    ∧ (∀ (l : QLive) (q : EventQueue) (r : Record), q.count = l.toNat → q.enqueue l.toNat r = (false, q))
    ∧ (∀ (s : State) (r : Record), s.queue.count = s.params.qLive.toNat → s.trace r = s)

/-- DEQ delivers the oldest record, or does nothing when the queue is empty (R184). In every booted state, a fault
set or not: with the queue empty DEQ answers the same state; with a queue in form that holds records it answers
a state whose sink has the oldest record at its end, whose contents are the rest, whose dequeued slot is empty,
whose head is the next slot and whose count is one less, the queue in form and nothing else changed. -/
def Obligations.DequeueTakesOldest : Prop :=
  ∀ s : State, s.booted = true →
    (s.queue.count = 0 → exec .deq s = .next s)
    ∧ (s.queue.Wf s.params.qLive.toNat → s.queue.count ≠ 0 →
        ∃ r q', exec .deq s = .next { s with queue := q', sink := s.sink ++ [r] }
          ∧ s.queue.slot s.queue.head.val = some r ∧ s.queue.contents = r :: q'.contents
          ∧ q'.slot s.queue.head.val = none ∧ q'.head = s.queue.head + 1 ∧ q'.count + 1 = s.queue.count
          ∧ q'.Wf s.params.qLive.toNat)

/-- Along every run without a reset, what was delivered and what is queued only grows at the end (43_event_queue.md,
20_memory.md section 5). For every number of steps from a booted state with its storage in form and no reset
among the inputs to come: the delivered records followed by the queued ones are the earlier ones followed by
newly accepted records, so records are delivered in the order they were accepted and none is reordered. -/
def Obligations.FifoOrderAlongRuns : Prop :=
  ∀ (n : Nat) (s t : State), s.booted = true → s.StorageWf → NoReset s →
    Host.Core.run Sys2Proof.core n s = .next t →
    ∃ accepted, t.sink ++ t.queue.contents = (s.sink ++ s.queue.contents) ++ accepted ∧ s.sink <+: t.sink

/-- An address byte becomes sel and sets aset, and changes nothing else (R101). From every ready state and for every
byte, RX_ADDR answers the state with sel the byte and aset true, every other piece of state as it was; a byte of
128 or more is stored too (the spec's D4, log 7). -/
def Obligations.AddressByteSelects : Prop :=
  ∀ (s : State) (b : Byte), s.Ready → exec (.rxAddr b) s = .next { s with sel := b, aset := true }

/-- FIN clears aset and changes nothing else (R104). From every ready state, FIN answers the state with aset false,
every other piece of state as it was; in IDLE it changes nothing. -/
def Obligations.FinishedTransactionKeepsSel : Prop :=
  ∀ s : State, s.Ready →
    exec .fin s = .next { s with aset := false } ∧ (s.aset = false → exec .fin s = .next s)

/-- A data byte at an address that is no write-phase ID is only stored (40_transaction_fsm.md section 2,
30_encoding.md section 4, 20_memory.md section 3). From every ready state with its storage in form and sel below
128 and no write-phase ID, RX_DATA answers a state in which the cell at sel holds the byte and nothing else
changed: no request, no trace; flags.cmd is raised only where UNMATCHED_RAISES_CMD is set (the spec's D7 and D8,
log 11). -/
def Obligations.DataByteAtPlainAddressOnlyStores : Prop :=
  ∀ (s : State) (v : Byte), s.Ready → s.StorageWf → s.sel.toNat < 128 → s.params.wcmd s.sel = none →
    ∃ t, exec (.rxData v) s = .next t ∧ DataByteRan s t v [] s.params.unmatchedRaisesCmd []

/-- A request at an address that is no read-phase ID returns the cell unchanged (42_read_commands.md section 5,
40_transaction_fsm.md section 3). From every ready state with its storage in form and sel below 128 and no read-
phase ID, REQ answers a state in which the reply is the cell's byte, the cell is unchanged and the value trace
was pushed (the spec's D9, log 12); flags.cmd is raised only where UNMATCHED_RAISES_CMD is set (its D7, log 11);
nothing else changed. -/
def Obligations.RequestAtPlainAddressReturnsCell : Prop :=
  ∀ s : State, s.Ready → s.StorageWf → s.sel.toNat < 128 → s.params.rcmd s.sel = none →
    ∃ t, exec .req s = .next t
      ∧ ByteRequestRan s t (Memory.read s.reg s.sel.toNat) [] s.params.unmatchedRaisesCmd
          [{ kind := .rval, id := s.sel, val := Memory.read s.reg s.sel.toNat }]

/-- A data byte or a request at a command's address does what the command's instruction does (40_transaction_fsm.md
section 2, 40_transaction_fsm.md section 3, 30_encoding.md section 4). In every state: where sel is the ID of a
write-phase command, RX_DATA does exactly what that command's instruction does; where it is the ID of a read-
phase command, so does REQ; with admissible parameters every command's ID is found in its phase's table. That a
command's instruction is its whole event, the store and the reply included, is the model's reading of the opcode
table (log 22, DEDUCED). -/
def Obligations.EventAtCommandAddressRunsCommand : Prop :=
  (∀ (s : State) (m : WriteCmd) (v : Byte), s.params.wcmd s.sel = some m → exec (.rxData v) s = exec (m.instr v) s)
    ∧ (∀ (s : State) (m : ReadCmd), s.params.rcmd s.sel = some m → exec .req s = exec m.instr s)
    ∧ (∀ (p : Params) (m : WriteCmd), p.Admissible → p.wcmd (RegAddr.toByte (p.writeId m)) = some m)
    ∧ (∀ (p : Params) (m : ReadCmd), p.Admissible → p.rcmd (RegAddr.toByte (p.readId m)) = some m)

/-- A data byte or a request with sel of 128 or more only sets the fault mark (40_transaction_fsm.md section 5).
From every ready state with sel of 128 or more, RX_DATA, REQ and every command answer the state with the fault
mark ADDR_RANGE and nothing else changed: no cell, no request, no trace, no reply (the spec's D4, log 7). -/
def Obligations.OutOfRangeAccessOnlySetsFault : Prop :=
  ∀ s : State, s.Ready → 128 ≤ s.sel.toNat →
    (∀ v, exec (.rxData v) s = .next { s with fault := some .addrRange })
    ∧ exec .req s = .next { s with fault := some .addrRange }
    ∧ (∀ (m : WriteCmd) (v : Byte), exec (m.instr v) s = .next { s with fault := some .addrRange })
    ∧ (∀ m : ReadCmd, exec m.instr s = .next { s with fault := some .addrRange })

/-- GPIO_CLR drives pin v low and GPIO_SET drives it high (41_write_commands.md section 2). At its own address in a
ready state with storage in form, GPIO_CLR sends PUT(v, 0) and GPIO_SET, whose ID is 11, sends PUT(v, 1), for
every v, unchecked (the spec's D22, log 25). The byte is stored in the command's cell, one WCMD trace record is
pushed if the queue has room, and nothing else changes, whatever the identity. -/
def Obligations.GpioLevelCommandsDrivePin : Prop :=
  ∀ (s : State) (v : Byte),
    (s.AtId (s.params.writeId .gpioClr) → WriteCompletes (.gpioClr v) s (s.params.writeId .gpioClr) v [.put v 0])
    ∧ (s.AtId (s.params.writeId .gpioSet) → WriteCompletes (.gpioSet v) s (s.params.writeId .gpioSet) v [.put v 1])
    ∧ s.params.writeId .gpioSet = 11

/-- BANK_CLR drives pins 0..7 low if v is below 10, else pins 10..17 (R124). At its own address in a ready state
with storage in form, BANK_CLR sends PUT_MASKED(0x000FF, 0) for v below 10 and PUT_MASKED(0x3FC00, 0) for every
other v. The byte is stored in the command's cell, one WCMD trace record is pushed if the queue has room, and
nothing else changes, whatever the identity. -/
def Obligations.BankClearDrivesBankLow : Prop :=
  ∀ (s : State) (v : Byte),
    (s.AtId (s.params.writeId .bankClr) → v.toNat < 10 →
        WriteCompletes (.bankClr v) s (s.params.writeId .bankClr) v [.putMasked 0x000FF 0])
    ∧ (s.AtId (s.params.writeId .bankClr) → 10 ≤ v.toNat →
        WriteCompletes (.bankClr v) s (s.params.writeId .bankClr) v [.putMasked 0x3FC00 0])

/-- DIR_OUT makes pin v an output and DIR_IN an input (41_write_commands.md section 4). At its own address in a
ready state with storage in form, DIR_OUT sends SET_DIR(v, OUT) and DIR_IN sends SET_DIR(v, IN), for every v,
unchecked (the spec's D22, log 25). The byte is stored in the command's cell, one WCMD trace record is pushed if
the queue has room, and nothing else changes, whatever the identity. -/
def Obligations.DirectionCommandsSetDirection : Prop :=
  ∀ (s : State) (v : Byte),
    (s.AtId (s.params.writeId .dirOut) →
        WriteCompletes (.dirOut v) s (s.params.writeId .dirOut) v [.setDir v .output])
    ∧ (s.AtId (s.params.writeId .dirIn) →
        WriteCompletes (.dirIn v) s (s.params.writeId .dirIn) v [.setDir v .input])

/-- DRIVE0 to DRIVE3 set pin v to drive strength level 0 to 3 (41_write_commands.md section 5). At its own address
in a ready state with storage in form, DRIVEk sends SET_DRIVE(v, k), for every v; the numbering of the levels is
the spec's D28 (log 25). The byte is stored in the command's cell, one WCMD trace record is pushed if the queue
has room, and nothing else changes, whatever the identity. -/
def Obligations.DriveCommandsSetStrength : Prop :=
  ∀ (s : State) (v : Byte),
    (s.AtId (s.params.writeId .drive0) → WriteCompletes (.drive0 v) s (s.params.writeId .drive0) v [.setDrive v 0])
    ∧ (s.AtId (s.params.writeId .drive1) →
        WriteCompletes (.drive1 v) s (s.params.writeId .drive1) v [.setDrive v 1])
    ∧ (s.AtId (s.params.writeId .drive2) →
        WriteCompletes (.drive2 v) s (s.params.writeId .drive2) v [.setDrive v 2])
    ∧ (s.AtId (s.params.writeId .drive3) →
        WriteCompletes (.drive3 v) s (s.params.writeId .drive3) v [.setDrive v 3])

/-- PULL_UP, PULL_NONE and PULL_DOWN set the pull of pin v (41_write_commands.md section 6). At its own address in a
ready state with storage in form, the three commands send SET_PULL(v, UP), SET_PULL(v, NONE) and SET_PULL(v,
DOWN), for every v, unchecked (the spec's D22, log 25). The byte is stored in the command's cell, one WCMD trace
record is pushed if the queue has room, and nothing else changes, whatever the identity. -/
def Obligations.PullCommandsSetPull : Prop :=
  ∀ (s : State) (v : Byte),
    (s.AtId (s.params.writeId .pullUp) → WriteCompletes (.pullUp v) s (s.params.writeId .pullUp) v [.setPull v .up])
    ∧ (s.AtId (s.params.writeId .pullNone) →
        WriteCompletes (.pullNone v) s (s.params.writeId .pullNone) v [.setPull v .none])
    ∧ (s.AtId (s.params.writeId .pullDown) →
        WriteCompletes (.pullDown v) s (s.params.writeId .pullDown) v [.setPull v .down])

/-- PAD_PREPARE stores v and sends nothing (41_write_commands.md section 7). At its own address in a ready state
with storage in form, PAD_PREPARE sends no request, for every v; that the cell itself is the kept value is the
spec's D10 (log 13). The byte is stored in the command's cell, one WCMD trace record is pushed if the queue has
room, and nothing else changes, whatever the identity. -/
def Obligations.PadPrepareOnlyStores : Prop :=
  ∀ (s : State) (v : Byte),
    (s.AtId (s.params.writeId .padPrepare) → WriteCompletes (.padPrepare v) s (s.params.writeId .padPrepare) v [])

/-- PAD_APPLY sends the prepared byte as the pad configuration of pin v (41_write_commands.md section 7). At its own
address in a ready state with storage in form and admissible parameters, PAD_APPLY sends SET_PAD(v, p) with p
the byte in PAD_PREPARE's cell, for every v (the spec's D10, log 13). The byte is stored in the command's cell,
one WCMD trace record is pushed if the queue has room, and nothing else changes, whatever the identity. -/
def Obligations.PadApplySendsPreparedByte : Prop :=
  ∀ (s : State) (v : Byte),
    (s.AtId (s.params.writeId .padApply) → s.params.Admissible →
        WriteCompletes (.padApply v) s (s.params.writeId .padApply) v [.setPad v (s.cell (s.params.writeId .padPrepare))])

/-- Under the port identity the four port setters send their mask and value (41_write_commands.md section 8). At its
own address in a ready state with storage in form and port_ok true, for every v: PORT0_OUT and PORT1_OUT send
PUT_MASKED and PORT0_DIR and PORT1_DIR send DIR_MASKED, with the mask 0xFF and the byte shifted by 0 or
PORT1_SHIFT; a direction byte is v, or its complement if DIR_ONE_IS_OUT is false (the spec's D3 and D11, log 10,
log 14). -/
def Obligations.PortSettersUnderPortIdentity : Prop :=
  ∀ (s : State) (v : Byte),
    (s.AtId (s.params.writeId .port0Dir) → s.portOk = true →
        WriteCompletes (.port0Dir v) s (s.params.writeId .port0Dir) v [.dirMasked 0xFF (if s.params.dirOneIsOut then v else ~~~v).toNat])
    ∧ (s.AtId (s.params.writeId .port0Out) → s.portOk = true →
        WriteCompletes (.port0Out v) s (s.params.writeId .port0Out) v [.putMasked 0xFF v.toNat])
    ∧ (s.AtId (s.params.writeId .port1Dir) → s.portOk = true →
        WriteCompletes (.port1Dir v) s (s.params.writeId .port1Dir) v
        [.dirMasked (0xFF <<< s.params.port1Shift) ((if s.params.dirOneIsOut then v else ~~~v).toNat <<< s.params.port1Shift)])
    ∧ (s.AtId (s.params.writeId .port1Out) → s.portOk = true →
        WriteCompletes (.port1Out v) s (s.params.writeId .port1Out) v
        [.putMasked (0xFF <<< s.params.port1Shift) (v.toNat <<< s.params.port1Shift)])

/-- Without the port identity the four port setters are rejected: cmd raised, error trace, no request (R121). At its
own address in a ready state with storage in form and port_ok false, each of the four port setters stores v,
sends nothing, raises flags.cmd and pushes a WREJ record if the queue has room, for every v; nothing else
changes. -/
def Obligations.PortSettersRejected : Prop :=
  ∀ (s : State) (v : Byte), s.portOk = false →
    (s.AtId (s.params.writeId .port0Dir) → WriteRejected (.port0Dir v) s (s.params.writeId .port0Dir) v)
    ∧ (s.AtId (s.params.writeId .port0Out) → WriteRejected (.port0Out v) s (s.params.writeId .port0Out) v)
    ∧ (s.AtId (s.params.writeId .port1Dir) → WriteRejected (.port1Dir v) s (s.params.writeId .port1Dir) v)
    ∧ (s.AtId (s.params.writeId .port1Out) → WriteRejected (.port1Out v) s (s.params.writeId .port1Out) v)

/-- VER_MAJOR and VER_MINOR return the version constants (R151, R152). At its own address in a ready state with
storage in form, VER_MAJOR, whose ID is 1, and VER_MINOR reply with VERSION_MAJOR_VAL and VERSION_MINOR_VAL,
overwrite the cell with it and push the RCMD and RVAL records with it that fit; no query is made and nothing
else changes. -/
def Obligations.VersionCommandsReturnConstants : Prop :=
  ∀ s : State,
    (s.AtId (s.params.readId .verMajor) → ReadCompletes .verMajor s (s.params.readId .verMajor) s.params.versionMajor [])
    ∧ (s.AtId (s.params.readId .verMinor) → ReadCompletes .verMinor s (s.params.readId .verMinor) s.params.versionMinor [])
    ∧ s.params.readId .verMajor = 1

/-- GET_BANK queries bank 0 if the cell is below 10, else bank 1, and returns the answer (42_read_commands.md
section 3). At its own address in a ready state with storage in form, GET_BANK makes one query, BANK(0) if the
cell's byte is below 10 and BANK(1) otherwise, with that byte; the answer, whatever it is, is the reply and the
cell's new value, in both trace records (the spec's D12, log 15; the answer is free, log 5). Nothing else
changes. -/
def Obligations.BankGetterQueriesSelectedBank : Prop :=
  ∀ s : State,
    (s.AtId (s.params.readId .getBank) → (s.cell (s.params.readId .getBank)).toNat < 10 →
      ReadCompletes .getBank s (s.params.readId .getBank)
        (Config.gpioAnswer s.draws (.bank 0) (s.cell (s.params.readId .getBank)))
          [{ kind := (.bank 0), arg := s.cell (s.params.readId .getBank) }])
    ∧ (s.AtId (s.params.readId .getBank) → 10 ≤ (s.cell (s.params.readId .getBank)).toNat →
      ReadCompletes .getBank s (s.params.readId .getBank)
        (Config.gpioAnswer s.draws (.bank 1) (s.cell (s.params.readId .getBank)))
          [{ kind := (.bank 1), arg := s.cell (s.params.readId .getBank) }])

/-- Under the port identity the port getters query their port and return the answer (42_read_commands.md section 3).
At its own address in a ready state with storage in form and port_ok true, GET_PORT0 and GET_PORT1 make one
query of PORT(0) or PORT(1) with the cell's byte; the answer, whatever it is, is the reply and the cell's new
value, in both trace records (the spec's D13, log 15; the answer is free, log 5). Nothing else changes. -/
def Obligations.PortGettersUnderPortIdentity : Prop :=
  ∀ s : State, s.portOk = true →
    (s.AtId (s.params.readId .getPort0) →
      ReadCompletes .getPort0 s (s.params.readId .getPort0)
        (Config.gpioAnswer s.draws (.port 0) (s.cell (s.params.readId .getPort0)))
          [{ kind := (.port 0), arg := s.cell (s.params.readId .getPort0) }])
    ∧ (s.AtId (s.params.readId .getPort1) →
      ReadCompletes .getPort1 s (s.params.readId .getPort1)
        (Config.gpioAnswer s.draws (.port 1) (s.cell (s.params.readId .getPort1)))
          [{ kind := (.port 1), arg := s.cell (s.params.readId .getPort1) }])

/-- Without the port identity the port getters are rejected and return the unchanged cell (42_read_commands.md
section 5). At its own address in a ready state with storage in form and port_ok false, GET_PORT0 and GET_PORT1
raise flags.cmd, make no query, leave the cell and reply with it, and push the RREJ and RVAL records with it
that fit (the value trace: the spec's D9, log 12); nothing else changes. -/
def Obligations.PortGettersRejected : Prop :=
  ∀ s : State, s.portOk = false →
    (s.AtId (s.params.readId .getPort0) → ReadRejected .getPort0 s (s.params.readId .getPort0))
    ∧ (s.AtId (s.params.readId .getPort1) → ReadRejected .getPort1 s (s.params.readId .getPort1))

/-- The five pin getters query their property of pin v and return the answer (42_read_commands.md section 1,
42_read_commands.md section 3). At its own address in a ready state with storage in form, GET_TRUE, GET_DIR,
GET_STRENGTH, GET_PULL and GET_PAD make one query, TRUE_VALUE, DIR, DRIVE, PULL or PAD, with the cell's byte v;
the answer, whatever it is (it is free, the spec's D22, log 5), is the reply and the cell's new value, in both
trace records; nothing else changes. -/
def Obligations.PinGettersReturnLiveProperty : Prop :=
  ∀ s : State,
    (s.AtId (s.params.readId .getTrue) →
      ReadCompletes .getTrue s (s.params.readId .getTrue)
        (Config.gpioAnswer s.draws .trueValue (s.cell (s.params.readId .getTrue)))
          [{ kind := .trueValue, arg := s.cell (s.params.readId .getTrue) }])
    ∧ (s.AtId (s.params.readId .getDir) →
      ReadCompletes .getDir s (s.params.readId .getDir)
        (Config.gpioAnswer s.draws .dir (s.cell (s.params.readId .getDir)))
          [{ kind := .dir, arg := s.cell (s.params.readId .getDir) }])
    ∧ (s.AtId (s.params.readId .getStrength) →
      ReadCompletes .getStrength s (s.params.readId .getStrength)
        (Config.gpioAnswer s.draws .drive (s.cell (s.params.readId .getStrength)))
          [{ kind := .drive, arg := s.cell (s.params.readId .getStrength) }])
    ∧ (s.AtId (s.params.readId .getPull) →
      ReadCompletes .getPull s (s.params.readId .getPull)
        (Config.gpioAnswer s.draws .pull (s.cell (s.params.readId .getPull)))
          [{ kind := .pull, arg := s.cell (s.params.readId .getPull) }])
    ∧ (s.AtId (s.params.readId .getPad) →
      ReadCompletes .getPad s (s.params.readId .getPad)
        (Config.gpioAnswer s.draws .pad (s.cell (s.params.readId .getPad)))
          [{ kind := .pad, arg := s.cell (s.params.readId .getPad) }])

/-- STATUS returns the flags byte: each flag at its position, every other bit 0, no flag cleared
(42_read_commands.md section 4, 10_state.md section 3). At its own address, 100, in a ready state with storage
in form and admissible parameters, STATUS replies with a byte in which the bit at each flag's position in
FLAG_POS is that flag and every other bit is 0, and writes it into its cell, which is all it does but for the
two trace records: the flags are unchanged. That the spare bits read 0 is the spec's D5 (log 8). -/
def Obligations.StatusReturnsFlagsByte : Prop :=
  ∀ s : State, s.AtId (s.params.readId .status) → s.params.Admissible →
    ∃ r : Byte, ReadCompletes .status s 100 r []
      ∧ r.getLsbD s.params.flagPos.cfg.val = s.flags.cfg ∧ r.getLsbD s.params.flagPos.cmd.val = s.flags.cmd
      ∧ r.getLsbD s.params.flagPos.err.val = s.flags.err ∧ r.getLsbD s.params.flagPos.wdog.val = s.flags.wdog
      ∧ ∀ i : Fin 8, i ∉ [s.params.flagPos.cfg, s.params.flagPos.cmd, s.params.flagPos.err, s.params.flagPos.wdog] →
          r.getLsbD i.val = false

/-- After a write transaction of one byte the cell holds it, whether the address is a command, a rejected one or a
plain cell (41_write_commands.md section 9). From every ready IDLE state with storage in form, the three steps
of RX(a), RX(v), FIN with a below 128 leave the cell at a at v, sel at a, IDLE, no fault, every other cell as it
was and the inputs after them still to come. -/
def Obligations.WriteTransactionStoresByte : Prop :=
  ∀ (s : State) (a v : Byte) (rest : List Input), s.Ready → s.StorageWf → s.aset = false → a.toNat < 128 →
    s.schedule = .event (.rx a) :: .event (.rx v) :: .event .fin :: rest →
    ∃ t, Host.Core.run Sys2Proof.core 3 s = .next t ∧ Memory.read t.reg a.toNat = v ∧ t.sel = a ∧ t.aset = false
      ∧ t.fault = none ∧ t.schedule = rest ∧ ∀ b, b ≠ a.toNat → Memory.read t.reg b = Memory.read s.reg b

/-- A second request at a getter uses the first answer as its argument (70_reset_and_hazards.md section 2,
42_read_commands.md section 5, 42_read_commands.md section 3). From a ready state with storage in form at the
address of any of the eight getters, under the port identity for a port getter, two requests in a row reply with
two answers: the first to the getter's query with the cell's byte, the second to its query with the first
answer. GET_BANK's second query is of the bank that the first answer selects (the spec's D12, log 15). That the
second request is processed in full is its D20 (log 12); the answers are free (log 5). -/
def Obligations.RepeatedGetterUsesPreviousAnswer : Prop :=
  ∀ (s : State) (m : ReadCmd) (k : QueryKind), s.AtId (s.params.readId m) → (m = .getPort0 ∨ m = .getPort1 → s.portOk = true) →
    getterKind (s.cell (s.params.readId m)) m = some k →
    ∃ t u d k', exec m.instr s = .next t ∧ exec m.instr t = .next u
      ∧ d = Config.gpioAnswer s.draws k (s.cell (s.params.readId m)) ∧ getterKind d m = some k'
      ∧ u.replies = s.replies ++ [d, Config.gpioAnswer (s.draws + 1) k' d]
      ∧ u.cell (s.params.readId m) = Config.gpioAnswer (s.draws + 1) k' d
      ∧ u.queryLog = s.queryLog ++ [⟨k, s.cell (s.params.readId m)⟩, ⟨k', d⟩]

/-- After any of the six port-wide commands is rejected, the next STATUS reply has the cmd bit set
(70_reset_and_hazards.md section 2, 60_exceptions.md section 1). From a ready state with storage in form,
admissible parameters and port_ok false, run five steps: a data byte at the ID of one of the four port setters,
or a request at the ID of a port getter; then FIN, the address byte of STATUS, FIN and a request. The last reply
has the bit at cmd's position set, a setter's rejection replied nothing and a getter's replied the unchanged
cell, and no GPIO request and no query was made. -/
def Obligations.RejectionShowsInStatus : Prop :=
  ∀ (s : State) (e : Event) (rest : List Input) (first : List Byte),
    s.Ready → s.StorageWf → s.params.Admissible → s.portOk = false →
    s.schedule = .event e :: .event .fin :: .event (.rx (RegAddr.toByte (s.params.readId .status))) :: .event .fin
      :: .event .req :: rest →
    ((∃ m ∈ [WriteCmd.port0Dir, .port0Out, .port1Dir, .port1Out], ∃ v, s.sel = RegAddr.toByte (s.params.writeId m)
        ∧ s.aset = true ∧ e = .rx v ∧ first = [])
      ∨ ∃ m ∈ [ReadCmd.getPort0, .getPort1], s.sel = RegAddr.toByte (s.params.readId m)
        ∧ e = .req ∧ first = [s.cell (s.params.readId m)]) →
    ∃ u r, Host.Core.run Sys2Proof.core 5 s = .next u ∧ u.replies = s.replies ++ first ++ [r]
      ∧ r.getLsbD s.params.flagPos.cmd.val = true ∧ u.gpioLog = s.gpioLog ∧ u.queryLog = s.queryLog

/-- The text of a record is at most RECORD_LEN bytes, and RECORD_LEN is at least 1 (00_scope.md section 3,
10_state.md section 5). Whatever RENDER and RECORD_LEN are (log 18), a record's text fits and the length is at
least 1. -/
def Obligations.RecordTextFits : Prop :=
  1 ≤ Config.recordLen ∧ ∀ r : Record, (Config.render r).length ≤ Config.recordLen
end

