-- ==== Sys2Proof/Laws/Memory.lean ====
section
/-! SUPPORT. The register file: reading what was written, and the canonical form every operation keeps. -/

namespace Sys2Proof.Machine

@[simp] theorem Memory.read_nil (a : Nat) : Memory.read [] a = Memory.unlisted := rfl

theorem Memory.read_pair (b : Nat) (w : Byte) (rest : Memory) (a : Nat) :
    Memory.read ((b, w) :: rest) a = if a = b then w else Memory.read rest a := rfl

theorem Memory.wfFrom_pair {lo b : Nat} {w : Byte} {rest : Memory} :
    Memory.wfFrom lo ((b, w) :: rest) = true ↔
      lo ≤ b ∧ b < Config.nRegs ∧ w ≠ Memory.unlisted ∧ Memory.wfFrom (b + 1) rest = true := by
  simp [Memory.wfFrom, and_assoc]

theorem Memory.wfFrom_weaken {lo lo' : Nat} {m : Memory} (h : lo ≤ lo') (hm : Memory.wfFrom lo' m = true) :
    Memory.wfFrom lo m = true := by
  cases m with
  | nil => rfl
  | cons c rest =>
    rw [Memory.wfFrom_pair] at hm ⊢
    exact ⟨h.trans hm.1, hm.2⟩

/-- Below the form's first address every cell is unlisted. -/
theorem Memory.read_below {lo a : Nat} {m : Memory} (hm : Memory.wfFrom lo m = true) (h : a < lo) :
    Memory.read m a = Memory.unlisted := by
  induction m generalizing lo with
  | nil => rfl
  | cons c rest ih =>
    obtain ⟨hb, -, -, hr⟩ := Memory.wfFrom_pair.mp hm
    rw [Memory.read_pair, if_neg (by omega)]
    exact ih hr (by omega)

theorem Memory.read_cons (a : Nat) (v : Byte) {rest : Memory} {lo : Nat} (h : Memory.wfFrom lo rest = true) (hlo : a < lo) (b : Nat) :
    Memory.read (Memory.cons a v rest) b = if b = a then v else Memory.read rest b := by
  unfold Memory.cons
  split
  · split
    · simp_all [Memory.read_below h hlo]
    · rfl
  · rfl

theorem Memory.wfFrom_cons {lo a : Nat} {v : Byte} {rest : Memory} (hlo : lo ≤ a) (ha : a < Config.nRegs)
    (h : Memory.wfFrom (a + 1) rest = true) : Memory.wfFrom lo (Memory.cons a v rest) = true := by
  unfold Memory.cons
  split
  · exact Memory.wfFrom_weaken (by omega) h
  · exact Memory.wfFrom_pair.mpr ⟨hlo, ha, ‹_›, h⟩

/-- A write changes exactly the cell written. -/
theorem Memory.read_write {m : Memory} {lo : Nat} (hm : Memory.wfFrom lo m = true) (a : Nat) (v : Byte) (b : Nat) :
    Memory.read (Memory.write m a v) b = if b = a then v else Memory.read m b := by
  induction m generalizing lo with
  | nil => exact Memory.read_cons a v (lo := a + 1) rfl (by omega) b
  | cons c rest ih =>
    obtain ⟨-, hc, hw, hr⟩ := Memory.wfFrom_pair.mp hm
    unfold Memory.write
    split
    · exact Memory.read_cons a v (Memory.wfFrom_pair.mpr ⟨le_rfl, hc, hw, hr⟩) ‹_› b
    split
    · subst a
      rw [Memory.read_cons _ _ hr (by omega), Memory.read_pair]
      split <;> rfl
    · rw [Memory.read_pair, Memory.read_pair, ih hr]
      split <;> split <;> first | rfl | omega

/-- A write to a cell keeps the canonical form. -/
theorem Memory.wfFrom_write {m : Memory} {lo a : Nat} (hm : Memory.wfFrom lo m = true) (v : Byte) (hlo : lo ≤ a)
    (ha : a < Config.nRegs) : Memory.wfFrom lo (Memory.write m a v) = true := by
  induction m generalizing lo with
  | nil => exact Memory.wfFrom_cons hlo ha rfl
  | cons c rest ih =>
    obtain ⟨hb, hc, hw, hr⟩ := Memory.wfFrom_pair.mp hm
    unfold Memory.write
    split
    · exact Memory.wfFrom_cons hlo ha (Memory.wfFrom_pair.mpr ⟨by omega, hc, hw, hr⟩)
    split
    · subst a
      exact Memory.wfFrom_cons hlo ha hr
    · exact Memory.wfFrom_pair.mpr ⟨hb, hc, hw, ih hr (by omega)⟩

theorem Memory.write_wf {m : Memory} {a : Nat} (hm : m.wf = true) (v : Byte) (ha : a < Config.nRegs) :
    (Memory.write m a v).wf = true := Memory.wfFrom_write hm v (Nat.zero_le _) ha

theorem Memory.load_wf (cells : List Host.Cell) : (Memory.load cells).wf = true := by
  unfold Memory.load
  suffices h : ∀ m : Memory, m.wf = true →
      (cells.foldl (fun m c => if c.1 < Config.nRegs then m.write c.1 c.2 else m) m).wf = true from h [] rfl
  induction cells with
  | nil => exact fun _ h => h
  | cons c rest ih =>
    intro m hm
    rw [List.foldl_cons]
    apply ih
    split
    · exact Memory.write_wf hm c.2 ‹_›
    · exact hm

/-- What a loaded register file reads as at a cell's address: the last byte listed for it, 0 where none is. -/
theorem Memory.read_load (cells : List Host.Cell) {a : Nat} (ha : a < Config.nRegs) :
    Memory.read (Memory.load cells) a = (cells.reverse.lookup a).getD Memory.unlisted := by
  unfold Memory.load
  suffices h : ∀ m : Memory, m.wf = true →
      Memory.read (cells.foldl (fun m c => if c.1 < Config.nRegs then m.write c.1 c.2 else m) m) a
        = (cells.reverse.lookup a).getD (Memory.read m a) from h [] rfl
  induction cells with
  | nil => exact fun _ _ => rfl
  | cons c rest ih =>
    intro m hm
    rw [List.foldl_cons, List.reverse_cons, List.lookup_append]
    by_cases hc : c.1 < Config.nRegs
    · rw [if_pos hc, ih _ (Memory.write_wf hm c.2 hc), Memory.read_write hm]
      cases List.lookup a rest.reverse with
      | some v => rfl
      | none =>
        by_cases h : a = c.1
        · simp [List.lookup, h]
        · simp [List.lookup, h, beq_eq_false_iff_ne.mpr h]
    · have hne : a ≠ c.1 := by omega
      rw [if_neg hc, ih _ hm]
      cases List.lookup a rest.reverse with
      | some v => rfl
      | none => simp [List.lookup, beq_eq_false_iff_ne.mpr hne]

/-- Equal cells, equal data: the canonical form is one per register file. -/
theorem Memory.eq_of_read {m n : Memory} {lo : Nat} (hm : Memory.wfFrom lo m = true) (hn : Memory.wfFrom lo n = true)
    (h : ∀ a, Memory.read m a = Memory.read n a) : m = n := by
  induction m generalizing n lo with
  | nil =>
    cases n with
    | nil => rfl
    | cons c rest =>
      obtain ⟨-, -, hw, -⟩ := Memory.wfFrom_pair.mp hn
      obtain ⟨c1, c2⟩ := c
      exact absurd (by simpa [Memory.read_pair] using (h c1).symm) hw
  | cons c rest ih =>
    obtain ⟨-, -, hw, hr⟩ := Memory.wfFrom_pair.mp hm
    cases n with
    | nil =>
      obtain ⟨c1, c2⟩ := c
      exact absurd (by simpa [Memory.read_pair] using h c1) hw
    | cons d rest' =>
      obtain ⟨-, -, hw', hr'⟩ := Memory.wfFrom_pair.mp hn
      obtain ⟨c1, c2⟩ := c
      obtain ⟨d1, d2⟩ := d
      have hcd : c1 = d1 := by
        rcases Nat.lt_trichotomy c1 d1 with hlt | heq | hlt
        · have := h c1
          rw [Memory.read_pair, if_pos rfl, Memory.read_pair, if_neg (by omega), Memory.read_below hr' (by simp; omega)] at this
          exact absurd this hw
        · exact heq
        · have := h d1
          rw [Memory.read_pair, if_neg (by omega), Memory.read_pair, if_pos rfl, Memory.read_below hr (by simp; omega)] at this
          exact absurd this.symm hw'
      subst hcd
      have h2 : c2 = d2 := by simpa [Memory.read_pair] using h c1
      subst h2
      rw [ih hr hr' fun a => ?_]
      by_cases ha : a = c1
      · subst ha
        rw [Memory.read_below hr (by simp), Memory.read_below hr' (by simp)]
      · simpa [Memory.read_pair, ha] using h a

theorem regAddr?_of_lt {b : Byte} (h : b.toNat < 128) : regAddr? b = some (b.setWidth 7) := by
  simp [regAddr?, Config.nRegs, h]

theorem regAddr?_eq_none {b : Byte} : regAddr? b = none ↔ 128 ≤ b.toNat := by
  unfold regAddr? Config.nRegs
  split <;> simp <;> omega

theorem setWidth_toNat_of_lt {b : Byte} (h : b.toNat < 128) : (b.setWidth 7).toNat = b.toNat := by
  simpa using Nat.mod_eq_of_lt h

/-- An address in range and its register address are the same number. -/
theorem regAddr?_eq_some {b : Byte} {a : RegAddr} : regAddr? b = some a ↔ b.toNat = a.toNat := by
  constructor
  · intro h
    have hb : b.toNat < 128 := by
      by_contra hc
      rw [regAddr?_eq_none.mpr (by omega)] at h
      cases h
    rw [regAddr?_of_lt hb, Option.some.injEq] at h
    rw [← h, setWidth_toNat_of_lt hb]
  · intro h
    have hb : b.toNat < 128 := by have := a.isLt; omega
    rw [regAddr?_of_lt hb, Option.some.injEq]
    exact BitVec.eq_of_toNat_eq (by rw [setWidth_toNat_of_lt hb, h])

@[simp] theorem RegAddr.toByte_toNat (a : RegAddr) : (RegAddr.toByte a).toNat = a.toNat := by
  have := a.isLt
  simp only [RegAddr.toByte, BitVec.toNat_setWidth]
  omega

@[simp] theorem regAddr?_toByte (a : RegAddr) : regAddr? (RegAddr.toByte a) = some a := by
  simp [regAddr?_eq_some]

theorem RegAddr.toByte_inj {a b : RegAddr} (h : RegAddr.toByte a = RegAddr.toByte b) : a = b :=
  BitVec.eq_of_toNat_eq (by rw [← RegAddr.toByte_toNat, h, RegAddr.toByte_toNat])

end Sys2Proof.Machine
end

