-- ==== Sys2Proof/Laws/Decode.lean ====
section
/-! SUPPORT. The command table's lookups: what they find, and that distinct IDs make them inverse to the IDs. -/

namespace Sys2Proof.Machine

theorem WriteCmd.mem_all (m : WriteCmd) : m ∈ WriteCmd.all := by cases m <;> decide
theorem ReadCmd.mem_all (m : ReadCmd) : m ∈ ReadCmd.all := by cases m <;> decide
theorem Command.mem_all (c : Command) : c ∈ Command.all := by
  rcases c with m | m <;> cases m <;> decide

/-- What `wcmd` finds has the ID asked for. -/
theorem wcmd_some {p : Params} {id : Byte} {m : WriteCmd} (h : p.wcmd id = some m) : RegAddr.toByte (p.writeId m) = id := by
  simpa using List.find?_some h

/-- What `rcmd` finds has the ID asked for. -/
theorem rcmd_some {p : Params} {id : Byte} {m : ReadCmd} (h : p.rcmd id = some m) : RegAddr.toByte (p.readId m) = id := by
  simpa using List.find?_some h

/-- The IDs of all commands, in the table's order, are the open IDs and the fixed four, in another order. -/
theorem commandIds_perm (p : Params) : (Command.all.map p.commandId).Perm (p.ids.toList ++ Config.fixedIds) := by
  simp only [Command.all, WriteCmd.all, ReadCmd.all, CommandIds.toList, Config.fixedIds, List.drop, List.map,
    List.cons_append, List.nil_append, Params.commandId, Params.writeId, Params.readId]
  rw [List.perm_iff_count]
  intro a
  simp only [List.count_cons, List.count_nil]
  omega

/-- Admissible parameters give different commands different IDs (30_encoding.md R76). -/
theorem commandId_inj {p : Params} (hp : p.Admissible) {c d : Command} (h : p.commandId c = p.commandId d) : c = d :=
  List.inj_on_of_nodup_map ((commandIds_perm p).nodup_iff.mpr hp.1) (Command.mem_all c) (Command.mem_all d) h

theorem writeId_inj {p : Params} (hp : p.Admissible) {m n : WriteCmd} (h : p.writeId m = p.writeId n) : m = n :=
  Command.write.inj (commandId_inj (c := .write m) (d := .write n) hp h)

theorem readId_inj {p : Params} (hp : p.Admissible) {m n : ReadCmd} (h : p.readId m = p.readId n) : m = n :=
  Command.read.inj (commandId_inj (c := .read m) (d := .read n) hp h)

/-- A lookup that asks for an element's own ID finds that element, if IDs are distinct. -/
theorem find?_of_inj {α : Type} {l : List α} {f : α → RegAddr} {m : α} (hm : m ∈ l) (hinj : ∀ n, f n = f m → n = m) :
    (l.find? fun n => RegAddr.toByte (f n) == RegAddr.toByte (f m)) = some m := by
  cases h : l.find? fun n => RegAddr.toByte (f n) == RegAddr.toByte (f m) with
  | none => exact absurd (List.find?_eq_none.mp h m hm) (by simp)
  | some n =>
    have := List.find?_some h
    rw [beq_iff_eq] at this
    rw [hinj n (RegAddr.toByte_inj this)]

end Sys2Proof.Machine
end

