-- ==== Sys2Proof/Laws/Queue.lean ====
section
/-! SUPPORT. The event queue: what Enqueue and Dequeue do to its contents, and that they keep its invariants. -/

namespace Sys2Proof.Machine

@[simp] theorem QLive.toNat_le (l : QLive) : l.toNat ≤ 64 := by cases l <;> decide

theorem EventQueue.slot_mod (q : EventQueue) (i : Nat) : q.slot (i % 64) = q.slot i := by
  simp [EventQueue.slot]

/-- A slot after one slot was written. -/
theorem EventQueue.slot_set (q : EventQueue) (j : Fin 64) (x : Option Record) (hd tl : Fin 64) (n i : Nat) :
    EventQueue.slot { slots := q.slots.set j.val x, head := hd, tail := tl, count := n } i
      = if i % 64 = j.val then x else q.slot i := by
  simp only [EventQueue.slot, Vector.getElem_set]
  split <;> split <;> first | rfl | omega

/-- Slot by slot, the queue's form: which slots from the head hold a record. -/
theorem EventQueue.Wf.isSome {live : Nat} {q : EventQueue} (h : q.Wf live) {i : Nat} (hi : i < 64) :
    (q.slot (q.head.val + i)).isSome = decide (i < q.count) := h.2.2 ⟨i, hi⟩

theorem EventQueue.empty_wf (live : Nat) : EventQueue.empty.Wf live := by
  refine ⟨Nat.zero_le _, rfl, ?_⟩
  decide

@[simp] theorem EventQueue.empty_contents : EventQueue.empty.contents = [] := rfl

theorem EventQueue.length_contents {live : Nat} {q : EventQueue} (hl : live ≤ 64) (h : q.Wf live) :
    q.contents.length = q.count := by
  have key : ∀ n, n ≤ q.count → ((List.range n).filterMap fun i => q.slot (q.head.val + i)).length = n := by
    intro n
    induction n with
    | zero => intro _; rfl
    | succ n ih =>
      intro hn
      have hs := h.isSome (i := n) (by have := h.1; omega)
      obtain ⟨r, hr⟩ := Option.isSome_iff_exists.mp (hs.trans (decide_eq_true (by omega)))
      rw [List.range_succ, List.filterMap_append, List.length_append, ih (by omega)]
      simp [hr]
  exact key _ le_rfl

/-- Where it is not full, Enqueue accepts the record and puts it last (43_event_queue.md R181). -/
theorem EventQueue.enqueue_accepts {live : Nat} {q : EventQueue} (r : Record) (hl : live ≤ 64) (h : q.Wf live)
    (hc : q.count < live) :
    (q.enqueue live r).1 = true ∧ (q.enqueue live r).2.contents = q.contents ++ [r] ∧ (q.enqueue live r).2.Wf live := by
  obtain ⟨hcount, htail, hslots⟩ := id h
  simp only [EventQueue.enqueue, if_pos hc, true_and]
  have hnew : ∀ i, i < 64 → EventQueue.slot
      { slots := q.slots.set q.tail.val (some r), head := q.head, tail := q.tail + 1, count := q.count + 1 } (q.head.val + i)
        = if i = q.count then some r else q.slot (q.head.val + i) := by
    intro i hi
    rw [EventQueue.slot_set]
    congr 1
    rw [htail, eq_iff_iff]
    omega
  refine ⟨?_, ?_, ?_, ?_⟩
  · simp only [EventQueue.contents]
    rw [List.range_succ, List.filterMap_append]
    congr 1
    · apply List.filterMap_congr
      intro i hi
      have hi := List.mem_range.mp hi
      rw [hnew i (by omega), if_neg (by omega)]
    · simp [hnew q.count (by omega)]
  · exact hc
  · simp only [Fin.val_add, htail, Fin.val_one]
    omega
  · intro i
    rw [hnew i.val i.isLt]
    split
    · simp_all
    · rw [hslots i]
      simp only [decide_eq_decide]
      omega

/-- Where it is full, Enqueue refuses the record and changes nothing (43_event_queue.md R182). -/
theorem EventQueue.enqueue_full {live : Nat} {q : EventQueue} (r : Record) (hc : ¬ q.count < live) :
    q.enqueue live r = (false, q) := by
  simp [EventQueue.enqueue, hc]

/-- Everything an Enqueue can do, in one line: the queue keeps what fits. -/
theorem EventQueue.contents_enqueue {live : Nat} {q : EventQueue} (r : Record) (hl : live ≤ 64) (h : q.Wf live) :
    (q.enqueue live r).2.contents = (q.contents ++ [r]).take live := by
  have hlen := EventQueue.length_contents hl h
  have hcount := h.1
  by_cases hc : q.count < live
  · rw [(EventQueue.enqueue_accepts r hl h hc).2.1, List.take_of_length_le (by simp; omega)]
  · rw [EventQueue.enqueue_full r hc, List.take_append_of_le_length (by omega), List.take_of_length_le (by omega)]

theorem EventQueue.enqueue_wf {live : Nat} {q : EventQueue} (r : Record) (hl : live ≤ 64) (h : q.Wf live) :
    (q.enqueue live r).2.Wf live := by
  by_cases hc : q.count < live
  · exact (EventQueue.enqueue_accepts r hl h hc).2.2
  · rw [EventQueue.enqueue_full r hc]
    exact h

/-- Several records enqueued one after the other. -/
theorem EventQueue.foldl_enqueue {live : Nat} (hl : live ≤ 64) (rs : List Record) (q : EventQueue) (h : q.Wf live) :
    (rs.foldl (fun q r => (q.enqueue live r).2) q).contents = (q.contents ++ rs).take live
      ∧ (rs.foldl (fun q r => (q.enqueue live r).2) q).Wf live := by
  induction rs generalizing q with
  | nil =>
    have := EventQueue.length_contents hl h
    have := h.1
    exact ⟨by rw [List.append_nil, List.take_of_length_le (by omega)]; rfl, h⟩
  | cons r rs ih =>
    obtain ⟨hc, hw⟩ := ih (q.enqueue live r).2 (EventQueue.enqueue_wf r hl h)
    refine ⟨?_, hw⟩
    rw [List.foldl_cons, hc, EventQueue.contents_enqueue r hl h]
    by_cases hlt : q.contents.length < live
    · rw [List.take_of_length_le (l := q.contents ++ [r]) (by simp; omega), List.append_assoc]
      rfl
    · rw [List.take_append_of_le_length (by simp; omega), List.take_append_of_le_length (by omega), List.take_take,
        Nat.min_self, List.take_append_of_le_length (by omega)]

/-- An empty queue gives nothing and stays as it is. -/
theorem EventQueue.dequeue_empty {q : EventQueue} (h : q.count = 0) : q.dequeue = (none, q) := by
  simp [EventQueue.dequeue, h]

/-- Dequeue takes the oldest record (43_event_queue.md R184). -/
theorem EventQueue.dequeue_oldest {live : Nat} {q : EventQueue} (hl : live ≤ 64) (h : q.Wf live) (hc : q.count ≠ 0) :
    ∃ r, q.dequeue.1 = some r ∧ q.contents = r :: q.dequeue.2.contents ∧ q.dequeue.2.Wf live := by
  obtain ⟨hcount, htail, hslots⟩ := id h
  have hs := h.isSome (i := 0) (by omega)
  obtain ⟨r, hr⟩ := Option.isSome_iff_exists.mp (hs.trans (decide_eq_true (by omega)))
  rw [Nat.add_zero] at hr
  have hnew : ∀ n i, i < 64 → EventQueue.slot
      { slots := q.slots.set q.head.val none, head := q.head + 1, tail := q.tail, count := n } (q.head.val + 1 + i)
        = if i = 63 then none else q.slot (q.head.val + (i + 1)) := by
    intro n i hi
    have hh := q.head.isLt
    rw [EventQueue.slot_set, show q.head.val + 1 + i = q.head.val + (i + 1) by omega]
    congr 1
    rw [eq_iff_iff]
    omega
  have hmod : ∀ i (p : EventQueue), p.slot ((q.head + 1).val + i) = p.slot (q.head.val + 1 + i) := by
    intro i p
    rw [← EventQueue.slot_mod, ← EventQueue.slot_mod p (q.head.val + 1 + i)]
    congr 1
    simp only [Fin.val_add, Fin.val_one]
    omega
  refine ⟨r, by simp [EventQueue.dequeue, hc, hr], ?_, ?_⟩
  · simp only [EventQueue.dequeue, if_neg hc, EventQueue.contents]
    obtain ⟨n, hn⟩ := Nat.exists_eq_succ_of_ne_zero hc
    rw [hn, List.range_succ_eq_map, List.filterMap_cons, Nat.add_zero, hr]
    simp only [List.filterMap_map]
    congr 1
    apply List.filterMap_congr
    intro i hi
    have hi := List.mem_range.mp hi
    rw [hmod, hnew _ i (by omega), if_neg (by omega)]
    rfl
  · simp only [EventQueue.dequeue, if_neg hc]
    refine ⟨by simp only; omega, ?_, ?_⟩
    · simp only [htail, Fin.val_add, Fin.val_one]
      omega
    · intro i
      simp only
      rw [hmod, hnew _ i.val i.isLt]
      split
      · exact (decide_eq_false (by omega)).symm
      · rw [h.isSome (by omega)]
        simp only [decide_eq_decide]
        omega

end Sys2Proof.Machine
end

