-- ==== Sys2Proof/Laws/State.lean ====
section
/-! SUPPORT. One lemma per field of each named update of the state: what it writes, and that it writes nothing else. -/

namespace Sys2Proof.Machine

@[simp] theorem State.setCell_params (s : State) (a : RegAddr) (v : Byte) : (s.setCell a v).params = s.params := rfl
@[simp] theorem State.setCell_reg (s : State) (a : RegAddr) (v : Byte) : (s.setCell a v).reg = Memory.write s.reg a.toNat v := rfl
@[simp] theorem State.setCell_sel (s : State) (a : RegAddr) (v : Byte) : (s.setCell a v).sel = s.sel := rfl
@[simp] theorem State.setCell_aset (s : State) (a : RegAddr) (v : Byte) : (s.setCell a v).aset = s.aset := rfl
@[simp] theorem State.setCell_flags (s : State) (a : RegAddr) (v : Byte) : (s.setCell a v).flags = s.flags := rfl
@[simp] theorem State.setCell_identity (s : State) (a : RegAddr) (v : Byte) : (s.setCell a v).identity = s.identity := rfl
@[simp] theorem State.setCell_queue (s : State) (a : RegAddr) (v : Byte) : (s.setCell a v).queue = s.queue := rfl
@[simp] theorem State.setCell_fault (s : State) (a : RegAddr) (v : Byte) : (s.setCell a v).fault = s.fault := rfl
@[simp] theorem State.setCell_gpioLog (s : State) (a : RegAddr) (v : Byte) : (s.setCell a v).gpioLog = s.gpioLog := rfl
@[simp] theorem State.setCell_booted (s : State) (a : RegAddr) (v : Byte) : (s.setCell a v).booted = s.booted := rfl
@[simp] theorem State.setCell_identityIn (s : State) (a : RegAddr) (v : Byte) : (s.setCell a v).identityIn = s.identityIn := rfl
@[simp] theorem State.setCell_wdogReason (s : State) (a : RegAddr) (v : Byte) : (s.setCell a v).wdogReason = s.wdogReason := rfl
@[simp] theorem State.setCell_schedule (s : State) (a : RegAddr) (v : Byte) : (s.setCell a v).schedule = s.schedule := rfl
@[simp] theorem State.setCell_replies (s : State) (a : RegAddr) (v : Byte) : (s.setCell a v).replies = s.replies := rfl
@[simp] theorem State.setCell_sink (s : State) (a : RegAddr) (v : Byte) : (s.setCell a v).sink = s.sink := rfl
@[simp] theorem State.setCell_queryLog (s : State) (a : RegAddr) (v : Byte) : (s.setCell a v).queryLog = s.queryLog := rfl
@[simp] theorem State.setCell_draws (s : State) (a : RegAddr) (v : Byte) : (s.setCell a v).draws = s.draws := rfl
@[simp] theorem State.setCell_portOk (s : State) (a : RegAddr) (v : Byte) : (s.setCell a v).portOk = s.portOk := rfl

@[simp] theorem State.trace_params (s : State) (r : Record) : (s.trace r).params = s.params := rfl
@[simp] theorem State.trace_reg (s : State) (r : Record) : (s.trace r).reg = s.reg := rfl
@[simp] theorem State.trace_sel (s : State) (r : Record) : (s.trace r).sel = s.sel := rfl
@[simp] theorem State.trace_aset (s : State) (r : Record) : (s.trace r).aset = s.aset := rfl
@[simp] theorem State.trace_flags (s : State) (r : Record) : (s.trace r).flags = s.flags := rfl
@[simp] theorem State.trace_identity (s : State) (r : Record) : (s.trace r).identity = s.identity := rfl
@[simp] theorem State.trace_queue (s : State) (r : Record) : (s.trace r).queue = (s.queue.enqueue s.params.qLive.toNat r).2 := rfl
@[simp] theorem State.trace_fault (s : State) (r : Record) : (s.trace r).fault = s.fault := rfl
@[simp] theorem State.trace_gpioLog (s : State) (r : Record) : (s.trace r).gpioLog = s.gpioLog := rfl
@[simp] theorem State.trace_booted (s : State) (r : Record) : (s.trace r).booted = s.booted := rfl
@[simp] theorem State.trace_identityIn (s : State) (r : Record) : (s.trace r).identityIn = s.identityIn := rfl
@[simp] theorem State.trace_wdogReason (s : State) (r : Record) : (s.trace r).wdogReason = s.wdogReason := rfl
@[simp] theorem State.trace_schedule (s : State) (r : Record) : (s.trace r).schedule = s.schedule := rfl
@[simp] theorem State.trace_replies (s : State) (r : Record) : (s.trace r).replies = s.replies := rfl
@[simp] theorem State.trace_sink (s : State) (r : Record) : (s.trace r).sink = s.sink := rfl
@[simp] theorem State.trace_queryLog (s : State) (r : Record) : (s.trace r).queryLog = s.queryLog := rfl
@[simp] theorem State.trace_draws (s : State) (r : Record) : (s.trace r).draws = s.draws := rfl
@[simp] theorem State.trace_portOk (s : State) (r : Record) : (s.trace r).portOk = s.portOk := rfl

@[simp] theorem State.gpioReq_params (s : State) (r : GpioRequest) : (s.gpioReq r).params = s.params := rfl
@[simp] theorem State.gpioReq_reg (s : State) (r : GpioRequest) : (s.gpioReq r).reg = s.reg := rfl
@[simp] theorem State.gpioReq_sel (s : State) (r : GpioRequest) : (s.gpioReq r).sel = s.sel := rfl
@[simp] theorem State.gpioReq_aset (s : State) (r : GpioRequest) : (s.gpioReq r).aset = s.aset := rfl
@[simp] theorem State.gpioReq_flags (s : State) (r : GpioRequest) : (s.gpioReq r).flags = s.flags := rfl
@[simp] theorem State.gpioReq_identity (s : State) (r : GpioRequest) : (s.gpioReq r).identity = s.identity := rfl
@[simp] theorem State.gpioReq_queue (s : State) (r : GpioRequest) : (s.gpioReq r).queue = s.queue := rfl
@[simp] theorem State.gpioReq_fault (s : State) (r : GpioRequest) : (s.gpioReq r).fault = s.fault := rfl
@[simp] theorem State.gpioReq_gpioLog (s : State) (r : GpioRequest) : (s.gpioReq r).gpioLog = s.gpioLog ++ [r] := rfl
@[simp] theorem State.gpioReq_booted (s : State) (r : GpioRequest) : (s.gpioReq r).booted = s.booted := rfl
@[simp] theorem State.gpioReq_identityIn (s : State) (r : GpioRequest) : (s.gpioReq r).identityIn = s.identityIn := rfl
@[simp] theorem State.gpioReq_wdogReason (s : State) (r : GpioRequest) : (s.gpioReq r).wdogReason = s.wdogReason := rfl
@[simp] theorem State.gpioReq_schedule (s : State) (r : GpioRequest) : (s.gpioReq r).schedule = s.schedule := rfl
@[simp] theorem State.gpioReq_replies (s : State) (r : GpioRequest) : (s.gpioReq r).replies = s.replies := rfl
@[simp] theorem State.gpioReq_sink (s : State) (r : GpioRequest) : (s.gpioReq r).sink = s.sink := rfl
@[simp] theorem State.gpioReq_queryLog (s : State) (r : GpioRequest) : (s.gpioReq r).queryLog = s.queryLog := rfl
@[simp] theorem State.gpioReq_draws (s : State) (r : GpioRequest) : (s.gpioReq r).draws = s.draws := rfl
@[simp] theorem State.gpioReq_portOk (s : State) (r : GpioRequest) : (s.gpioReq r).portOk = s.portOk := rfl

@[simp] theorem State.gpioQuery_params (s : State) (k : QueryKind) (v : Byte) : (s.gpioQuery k v).2.params = s.params := rfl
@[simp] theorem State.gpioQuery_reg (s : State) (k : QueryKind) (v : Byte) : (s.gpioQuery k v).2.reg = s.reg := rfl
@[simp] theorem State.gpioQuery_sel (s : State) (k : QueryKind) (v : Byte) : (s.gpioQuery k v).2.sel = s.sel := rfl
@[simp] theorem State.gpioQuery_aset (s : State) (k : QueryKind) (v : Byte) : (s.gpioQuery k v).2.aset = s.aset := rfl
@[simp] theorem State.gpioQuery_flags (s : State) (k : QueryKind) (v : Byte) : (s.gpioQuery k v).2.flags = s.flags := rfl
@[simp] theorem State.gpioQuery_identity (s : State) (k : QueryKind) (v : Byte) : (s.gpioQuery k v).2.identity = s.identity := rfl
@[simp] theorem State.gpioQuery_queue (s : State) (k : QueryKind) (v : Byte) : (s.gpioQuery k v).2.queue = s.queue := rfl
@[simp] theorem State.gpioQuery_fault (s : State) (k : QueryKind) (v : Byte) : (s.gpioQuery k v).2.fault = s.fault := rfl
@[simp] theorem State.gpioQuery_gpioLog (s : State) (k : QueryKind) (v : Byte) : (s.gpioQuery k v).2.gpioLog = s.gpioLog := rfl
@[simp] theorem State.gpioQuery_booted (s : State) (k : QueryKind) (v : Byte) : (s.gpioQuery k v).2.booted = s.booted := rfl
@[simp] theorem State.gpioQuery_identityIn (s : State) (k : QueryKind) (v : Byte) : (s.gpioQuery k v).2.identityIn = s.identityIn := rfl
@[simp] theorem State.gpioQuery_wdogReason (s : State) (k : QueryKind) (v : Byte) : (s.gpioQuery k v).2.wdogReason = s.wdogReason := rfl
@[simp] theorem State.gpioQuery_schedule (s : State) (k : QueryKind) (v : Byte) : (s.gpioQuery k v).2.schedule = s.schedule := rfl
@[simp] theorem State.gpioQuery_replies (s : State) (k : QueryKind) (v : Byte) : (s.gpioQuery k v).2.replies = s.replies := rfl
@[simp] theorem State.gpioQuery_sink (s : State) (k : QueryKind) (v : Byte) : (s.gpioQuery k v).2.sink = s.sink := rfl
@[simp] theorem State.gpioQuery_queryLog (s : State) (k : QueryKind) (v : Byte) : (s.gpioQuery k v).2.queryLog = s.queryLog ++ [{ kind := k, arg := v }] := rfl
@[simp] theorem State.gpioQuery_draws (s : State) (k : QueryKind) (v : Byte) : (s.gpioQuery k v).2.draws = s.draws + 1 := rfl
@[simp] theorem State.gpioQuery_portOk (s : State) (k : QueryKind) (v : Byte) : (s.gpioQuery k v).2.portOk = s.portOk := rfl

@[simp] theorem State.reply_params (s : State) (b : Byte) : (s.reply b).params = s.params := rfl
@[simp] theorem State.reply_reg (s : State) (b : Byte) : (s.reply b).reg = s.reg := rfl
@[simp] theorem State.reply_sel (s : State) (b : Byte) : (s.reply b).sel = s.sel := rfl
@[simp] theorem State.reply_aset (s : State) (b : Byte) : (s.reply b).aset = s.aset := rfl
@[simp] theorem State.reply_flags (s : State) (b : Byte) : (s.reply b).flags = s.flags := rfl
@[simp] theorem State.reply_identity (s : State) (b : Byte) : (s.reply b).identity = s.identity := rfl
@[simp] theorem State.reply_queue (s : State) (b : Byte) : (s.reply b).queue = s.queue := rfl
@[simp] theorem State.reply_fault (s : State) (b : Byte) : (s.reply b).fault = s.fault := rfl
@[simp] theorem State.reply_gpioLog (s : State) (b : Byte) : (s.reply b).gpioLog = s.gpioLog := rfl
@[simp] theorem State.reply_booted (s : State) (b : Byte) : (s.reply b).booted = s.booted := rfl
@[simp] theorem State.reply_identityIn (s : State) (b : Byte) : (s.reply b).identityIn = s.identityIn := rfl
@[simp] theorem State.reply_wdogReason (s : State) (b : Byte) : (s.reply b).wdogReason = s.wdogReason := rfl
@[simp] theorem State.reply_schedule (s : State) (b : Byte) : (s.reply b).schedule = s.schedule := rfl
@[simp] theorem State.reply_replies (s : State) (b : Byte) : (s.reply b).replies = s.replies ++ [b] := rfl
@[simp] theorem State.reply_sink (s : State) (b : Byte) : (s.reply b).sink = s.sink := rfl
@[simp] theorem State.reply_queryLog (s : State) (b : Byte) : (s.reply b).queryLog = s.queryLog := rfl
@[simp] theorem State.reply_draws (s : State) (b : Byte) : (s.reply b).draws = s.draws := rfl
@[simp] theorem State.reply_portOk (s : State) (b : Byte) : (s.reply b).portOk = s.portOk := rfl

@[simp] theorem State.raiseCmd_params (s : State) : s.raiseCmd.params = s.params := rfl
@[simp] theorem State.raiseCmd_reg (s : State) : s.raiseCmd.reg = s.reg := rfl
@[simp] theorem State.raiseCmd_sel (s : State) : s.raiseCmd.sel = s.sel := rfl
@[simp] theorem State.raiseCmd_aset (s : State) : s.raiseCmd.aset = s.aset := rfl
@[simp] theorem State.raiseCmd_flags (s : State) : s.raiseCmd.flags = { s.flags with cmd := true } := rfl
@[simp] theorem State.raiseCmd_identity (s : State) : s.raiseCmd.identity = s.identity := rfl
@[simp] theorem State.raiseCmd_queue (s : State) : s.raiseCmd.queue = s.queue := rfl
@[simp] theorem State.raiseCmd_fault (s : State) : s.raiseCmd.fault = s.fault := rfl
@[simp] theorem State.raiseCmd_gpioLog (s : State) : s.raiseCmd.gpioLog = s.gpioLog := rfl
@[simp] theorem State.raiseCmd_booted (s : State) : s.raiseCmd.booted = s.booted := rfl
@[simp] theorem State.raiseCmd_identityIn (s : State) : s.raiseCmd.identityIn = s.identityIn := rfl
@[simp] theorem State.raiseCmd_wdogReason (s : State) : s.raiseCmd.wdogReason = s.wdogReason := rfl
@[simp] theorem State.raiseCmd_schedule (s : State) : s.raiseCmd.schedule = s.schedule := rfl
@[simp] theorem State.raiseCmd_replies (s : State) : s.raiseCmd.replies = s.replies := rfl
@[simp] theorem State.raiseCmd_sink (s : State) : s.raiseCmd.sink = s.sink := rfl
@[simp] theorem State.raiseCmd_queryLog (s : State) : s.raiseCmd.queryLog = s.queryLog := rfl
@[simp] theorem State.raiseCmd_draws (s : State) : s.raiseCmd.draws = s.draws := rfl
@[simp] theorem State.raiseCmd_portOk (s : State) : s.raiseCmd.portOk = s.portOk := rfl

@[simp] theorem State.raiseFault_params (s : State) (r : Fault) : (s.raiseFault r).params = s.params := rfl
@[simp] theorem State.raiseFault_reg (s : State) (r : Fault) : (s.raiseFault r).reg = s.reg := rfl
@[simp] theorem State.raiseFault_sel (s : State) (r : Fault) : (s.raiseFault r).sel = s.sel := rfl
@[simp] theorem State.raiseFault_aset (s : State) (r : Fault) : (s.raiseFault r).aset = s.aset := rfl
@[simp] theorem State.raiseFault_flags (s : State) (r : Fault) : (s.raiseFault r).flags = s.flags := rfl
@[simp] theorem State.raiseFault_identity (s : State) (r : Fault) : (s.raiseFault r).identity = s.identity := rfl
@[simp] theorem State.raiseFault_queue (s : State) (r : Fault) : (s.raiseFault r).queue = s.queue := rfl
@[simp] theorem State.raiseFault_fault (s : State) (r : Fault) : (s.raiseFault r).fault = some r := rfl
@[simp] theorem State.raiseFault_gpioLog (s : State) (r : Fault) : (s.raiseFault r).gpioLog = s.gpioLog := rfl
@[simp] theorem State.raiseFault_booted (s : State) (r : Fault) : (s.raiseFault r).booted = s.booted := rfl
@[simp] theorem State.raiseFault_identityIn (s : State) (r : Fault) : (s.raiseFault r).identityIn = s.identityIn := rfl
@[simp] theorem State.raiseFault_wdogReason (s : State) (r : Fault) : (s.raiseFault r).wdogReason = s.wdogReason := rfl
@[simp] theorem State.raiseFault_schedule (s : State) (r : Fault) : (s.raiseFault r).schedule = s.schedule := rfl
@[simp] theorem State.raiseFault_replies (s : State) (r : Fault) : (s.raiseFault r).replies = s.replies := rfl
@[simp] theorem State.raiseFault_sink (s : State) (r : Fault) : (s.raiseFault r).sink = s.sink := rfl
@[simp] theorem State.raiseFault_queryLog (s : State) (r : Fault) : (s.raiseFault r).queryLog = s.queryLog := rfl
@[simp] theorem State.raiseFault_draws (s : State) (r : Fault) : (s.raiseFault r).draws = s.draws := rfl
@[simp] theorem State.raiseFault_portOk (s : State) (r : Fault) : (s.raiseFault r).portOk = s.portOk := rfl

@[simp] theorem State.reject_params (s : State) (r : Record) : (s.reject r).params = s.params := rfl
@[simp] theorem State.reject_reg (s : State) (r : Record) : (s.reject r).reg = s.reg := rfl
@[simp] theorem State.reject_sel (s : State) (r : Record) : (s.reject r).sel = s.sel := rfl
@[simp] theorem State.reject_aset (s : State) (r : Record) : (s.reject r).aset = s.aset := rfl
@[simp] theorem State.reject_flags (s : State) (r : Record) : (s.reject r).flags = { s.flags with cmd := true } := rfl
@[simp] theorem State.reject_identity (s : State) (r : Record) : (s.reject r).identity = s.identity := rfl
@[simp] theorem State.reject_queue (s : State) (r : Record) : (s.reject r).queue = (s.queue.enqueue s.params.qLive.toNat r).2 := rfl
@[simp] theorem State.reject_fault (s : State) (r : Record) : (s.reject r).fault = s.fault := rfl
@[simp] theorem State.reject_gpioLog (s : State) (r : Record) : (s.reject r).gpioLog = s.gpioLog := rfl
@[simp] theorem State.reject_booted (s : State) (r : Record) : (s.reject r).booted = s.booted := rfl
@[simp] theorem State.reject_identityIn (s : State) (r : Record) : (s.reject r).identityIn = s.identityIn := rfl
@[simp] theorem State.reject_wdogReason (s : State) (r : Record) : (s.reject r).wdogReason = s.wdogReason := rfl
@[simp] theorem State.reject_schedule (s : State) (r : Record) : (s.reject r).schedule = s.schedule := rfl
@[simp] theorem State.reject_replies (s : State) (r : Record) : (s.reject r).replies = s.replies := rfl
@[simp] theorem State.reject_sink (s : State) (r : Record) : (s.reject r).sink = s.sink := rfl
@[simp] theorem State.reject_queryLog (s : State) (r : Record) : (s.reject r).queryLog = s.queryLog := rfl
@[simp] theorem State.reject_draws (s : State) (r : Record) : (s.reject r).draws = s.draws := rfl
@[simp] theorem State.reject_portOk (s : State) (r : Record) : (s.reject r).portOk = s.portOk := rfl

@[simp] theorem State.gpioQuery_answer (s : State) (k : QueryKind) (v : Byte) :
    (s.gpioQuery k v).1 = Config.gpioAnswer s.draws k v := rfl

end Sys2Proof.Machine
end

