-- ==== Sys2Proof/Laws/Ops.lean ====
section
/-! SUPPORT. What the handler's shared operations do, once each: later proofs cite these instead of unfolding them. -/

namespace Sys2Proof.Machine

/-! ### The handler and the address in force -/

theorem State.handler_ready {s : State} (h : s.Ready) (k : State → State) : s.handler k = .next (k s) := by
  unfold State.handler
  rw [h.1, h.2]

theorem State.handler_beforeBoot {s : State} (h : s.booted = false) (k : State → State) :
    s.handler k = .refused .beforeBoot := by
  unfold State.handler
  rw [h]

theorem State.handler_stuck {s : State} {r : Fault} (h : s.booted = true) (hf : s.fault = some r) (k : State → State) :
    s.handler k = .fault r := by
  unfold State.handler
  rw [h, hf]

/-- If the handler answers a next state, it was ready. -/
theorem State.handler_next {s t : State} {k : State → State} (h : s.handler k = .next t) : s.Ready ∧ t = k s := by
  unfold State.handler at h
  split at h
  · cases h
  · cases h
  · exact ⟨⟨‹_›, ‹_›⟩, (Host.Outcome.next.inj h).symm⟩

theorem State.atSel_of_addr {s : State} {a : RegAddr} (h : s.sel.toNat = a.toNat) (k : RegAddr → State → State) :
    s.atSel k = k a s := by
  unfold State.atSel
  rw [regAddr?_eq_some.mpr h]

theorem State.atSel_out {s : State} (h : 128 ≤ s.sel.toNat) (k : RegAddr → State → State) :
    s.atSel k = s.raiseFault .addrRange := by
  unfold State.atSel
  rw [regAddr?_eq_none.mpr h]

/-- An access through `sel` faults, or runs at the cell of `sel`. -/
theorem State.atSel_cases (s : State) (k : RegAddr → State → State) :
    (128 ≤ s.sel.toNat ∧ s.atSel k = s.raiseFault .addrRange)
      ∨ ∃ a : RegAddr, s.sel.toNat = a.toNat ∧ s.atSel k = k a s := by
  rcases Nat.lt_or_ge s.sel.toNat 128 with h | h
  · exact .inr ⟨s.sel.setWidth 7, (setWidth_toNat_of_lt h).symm, State.atSel_of_addr (setWidth_toNat_of_lt h).symm k⟩
  · exact .inl ⟨h, State.atSel_out h k⟩

/-! ### The two shapes of effect -/

/-- What a stored data byte can run does: requests, perhaps `flags.cmd`, trace records; nothing else. -/
def State.afterWrite (s : State) (reqs : List GpioRequest) (cmd : Bool) (recs : List Record) : State :=
  { s with
    gpioLog := s.gpioLog ++ reqs
    flags := { s.flags with cmd := s.flags.cmd || cmd }
    queue := recs.foldl (fun q r => (q.enqueue s.params.qLive.toNat r).2) s.queue }

/-- What a byte request can run does: a cell, queries, perhaps `flags.cmd`, trace records; nothing else. -/
def State.afterRead (s : State) (reg : Memory) (qs : List GpioQuery) (cmd : Bool) (recs : List Record) : State :=
  { s with
    reg := reg
    queryLog := s.queryLog ++ qs
    draws := s.draws + qs.length
    flags := { s.flags with cmd := s.flags.cmd || cmd }
    queue := recs.foldl (fun q r => (q.enqueue s.params.qLive.toNat r).2) s.queue }

theorem Flags.cmd_or_false (f : Flags) : { f with cmd := f.cmd || false } = f := by
  simp

theorem Flags.cmd_or_true (f : Flags) : { f with cmd := f.cmd || true } = { f with cmd := true } := by
  simp

/-- An action sends at most one request and does nothing else; only the port-wide direction commands send a direction mask. -/
theorem writeAction_eq (m : WriteCmd) (v : Byte) (s : State) :
    ∃ reqs, writeAction m v s = { s with gpioLog := s.gpioLog ++ reqs } ∧ reqs.length ≤ 1
      ∧ (writeNeedsPort m = false → ∀ mask value, GpioRequest.dirMasked mask value ∉ reqs) := by
  cases m
  case padPrepare => exact ⟨[], by simp [writeAction, actPadPrepare], by simp, by simp⟩
  all_goals exact ⟨[_], rfl, le_rfl, by simp [writeNeedsPort]⟩

theorem writeCommand_rejected {m : WriteCmd} {s : State} (hm : writeNeedsPort m = true) (hp : s.portOk = false) (v : Byte) :
    writeCommand m v s
      = s.afterWrite [] true [{ kind := .wrej, id := RegAddr.toByte (s.params.writeId m), val := v }] := by
  simp [writeCommand, hm, hp, State.afterWrite, State.reject, State.trace, State.raiseCmd]

theorem writeCommand_accepted {m : WriteCmd} {s : State} (h : writeNeedsPort m = false ∨ s.portOk = true) (v : Byte)
    {reqs : List GpioRequest} (hr : writeAction m v s = { s with gpioLog := s.gpioLog ++ reqs }) :
    writeCommand m v s
      = s.afterWrite reqs false [{ kind := .wcmd, id := RegAddr.toByte (s.params.writeId m), val := v }] := by
  have hc : (writeNeedsPort m && !s.portOk) = false := by rcases h with h | h <;> simp [h]
  simp [writeCommand, hc, hr, State.afterWrite, State.trace]

/-- Everything a write-phase command can do after the store. -/
theorem writeCommand_cases (m : WriteCmd) (v : Byte) (s : State) :
    ∃ reqs cmd recs, writeCommand m v s = s.afterWrite reqs cmd recs ∧ reqs.length ≤ 1
      ∧ (cmd = true → s.portOk = false)
      ∧ (s.portOk = false → ∀ mask value, GpioRequest.dirMasked mask value ∉ reqs) := by
  by_cases h : writeNeedsPort m = true ∧ s.portOk = false
  · exact ⟨[], true, _, writeCommand_rejected h.1 h.2 v, by simp, fun _ => h.2, by simp⟩
  · have h' : writeNeedsPort m = false ∨ s.portOk = true := by
      by_cases hm : writeNeedsPort m = true
      · exact .inr (by simpa using fun hp => h ⟨hm, hp⟩)
      · exact .inl (by simpa using hm)
    obtain ⟨reqs, hr, hl, hd⟩ := writeAction_eq m v s
    refine ⟨reqs, false, _, writeCommand_accepted h' v hr, hl, by simp, fun hp => hd ?_⟩
    rcases h' with h' | h'
    · exact h'
    · simp [hp] at h'

theorem State.unmatched_eq (s : State) : s.unmatched = s.afterWrite [] s.params.unmatchedRaisesCmd [] := by
  unfold State.unmatched
  cases h : s.params.unmatchedRaisesCmd <;> simp [State.afterWrite, State.raiseCmd]

theorem State.unmatched_eq' (s : State) : s.unmatched = s.afterRead s.reg [] s.params.unmatchedRaisesCmd [] := by
  unfold State.unmatched
  cases h : s.params.unmatchedRaisesCmd <;> simp [State.afterRead, State.raiseCmd]

/-- Everything a stored data byte can run. -/
theorem runWritePhase_cases (v : Byte) (s : State) :
    ∃ reqs cmd recs, runWritePhase v s = s.afterWrite reqs cmd recs ∧ reqs.length ≤ 1
      ∧ (cmd = true → s.portOk = false ∨ s.params.unmatchedRaisesCmd = true)
      ∧ (s.portOk = false → ∀ mask value, GpioRequest.dirMasked mask value ∉ reqs) := by
  unfold runWritePhase
  split
  · obtain ⟨reqs, cmd, recs, h, hl, hc, hd⟩ := writeCommand_cases ‹_› v s
    exact ⟨reqs, cmd, recs, h, hl, fun hcmd => .inl (hc hcmd), hd⟩
  · exact ⟨[], _, [], s.unmatched_eq, by simp, .inr, by simp⟩

/-- A computation makes at most one query and changes nothing else. -/
theorem readCompute_eq (m : ReadCmd) (v : Byte) (s : State) :
    ∃ qs, (readCompute m v s).2 = { s with queryLog := s.queryLog ++ qs, draws := s.draws + qs.length } := by
  cases m
  case verMajor => exact ⟨[], by simp [readCompute, computeVerMajor]⟩
  case verMinor => exact ⟨[], by simp [readCompute, computeVerMinor]⟩
  case status => exact ⟨[], by simp [readCompute, computeStatus]⟩
  all_goals exact ⟨[_], rfl⟩

theorem readCommand_rejected {m : ReadCmd} {s : State} (hm : readNeedsPort m = true) (hp : s.portOk = false) (a : RegAddr) :
    readCommand m a s
      = s.afterRead s.reg [] true [{ kind := .rrej, id := RegAddr.toByte (s.params.readId m), val := s.cell a }] := by
  simp [readCommand, hm, hp, State.afterRead, State.reject, State.trace, State.raiseCmd]

theorem readCommand_accepted {m : ReadCmd} {s : State} (h : readNeedsPort m = false ∨ s.portOk = true) (a : RegAddr)
    {r : Byte} {qs : List GpioQuery}
    (hr : readCompute m (s.cell a) s = (r, { s with queryLog := s.queryLog ++ qs, draws := s.draws + qs.length })) :
    readCommand m a s
      = s.afterRead (Memory.write s.reg a.toNat r) qs false
          [{ kind := .rcmd, id := RegAddr.toByte (s.params.readId m), val := r }] := by
  have hc : (readNeedsPort m && !s.portOk) = false := by rcases h with h | h <;> simp [h]
  simp [readCommand, hc, hr, State.afterRead, State.trace, State.setCell]

/-- Everything a read-phase command can do before the reply. -/
theorem readCommand_cases (m : ReadCmd) (a : RegAddr) (s : State) :
    ∃ reg qs cmd recs, readCommand m a s = s.afterRead reg qs cmd recs
      ∧ (reg = s.reg ∨ ∃ r, reg = Memory.write s.reg a.toNat r) ∧ (cmd = true → s.portOk = false) := by
  by_cases h : readNeedsPort m = true ∧ s.portOk = false
  · exact ⟨_, _, true, _, readCommand_rejected h.1 h.2 a, .inl rfl, fun _ => h.2⟩
  · have h' : readNeedsPort m = false ∨ s.portOk = true := by
      by_cases hm : readNeedsPort m = true
      · exact .inr (by simpa using fun hp => h ⟨hm, hp⟩)
      · exact .inl (by simpa using hm)
    obtain ⟨qs, hq⟩ := readCompute_eq m (s.cell a) s
    exact ⟨_, qs, false, _, readCommand_accepted h' a (Prod.ext rfl hq), .inr ⟨_, rfl⟩, by simp⟩

/-- Everything a byte request can run before the reply. -/
theorem runReadPhase_cases (a : RegAddr) (s : State) :
    ∃ reg qs cmd recs, runReadPhase a s = s.afterRead reg qs cmd recs
      ∧ (reg = s.reg ∨ ∃ r, reg = Memory.write s.reg a.toNat r)
      ∧ (cmd = true → s.portOk = false ∨ s.params.unmatchedRaisesCmd = true) := by
  unfold runReadPhase
  split
  · obtain ⟨reg, qs, cmd, recs, h, hr, hc⟩ := readCommand_cases ‹_› a s
    exact ⟨reg, qs, cmd, recs, h, hr, fun hcmd => .inl (hc hcmd)⟩
  · exact ⟨_, _, _, _, s.unmatched_eq', .inl rfl, .inr⟩

/-! ### Data bytes and byte requests, read from outside -/

/-- A data byte in range, from what it ran. -/
theorem State.dataByte_ran {s : State} {v : Byte} {k : State → State} {a : RegAddr} {reqs : List GpioRequest} {cmd : Bool}
    {recs : List Record} (hs : s.StorageWf) (ha : s.sel.toNat = a.toNat)
    (hk : k (s.setCell a v) = (s.setCell a v).afterWrite reqs cmd recs) :
    DataByteRan s (s.dataByte v k) v reqs cmd recs := by
  have e : s.dataByte v k = (s.setCell a v).afterWrite reqs cmd recs := by
    unfold State.dataByte
    rw [State.atSel_of_addr ha, hk]
  rw [e]
  exact
    { cell := by
        show Memory.read (Memory.write s.reg a.toNat v) _ = v
        rw [Memory.read_write hs.1, if_pos ha]
      otherCells := fun b hb => by
        show Memory.read (Memory.write s.reg a.toNat v) b = _
        rw [Memory.read_write hs.1, if_neg (by omega)]
      requests := rfl
      flags := rfl
      records := (EventQueue.foldl_enqueue (QLive.toNat_le _) recs s.queue hs.2).1
      sel := rfl
      aset := rfl
      fault := rfl
      replies := rfl
      sink := rfl
      queries := rfl
      draws := rfl
      setup := ⟨rfl, rfl, rfl, rfl, rfl, rfl⟩ }

/-- A byte request in range, from what it ran. -/
theorem State.byteRequest_ran {s : State} {k : RegAddr → State → State} {a : RegAddr} {reg : Memory} {qs : List GpioQuery}
    {cmd : Bool} {recs : List Record} {r : Byte} (hs : s.StorageWf) (ha : s.sel.toNat = a.toNat)
    (hk : k a s = s.afterRead reg qs cmd recs) (hr : Memory.read reg a.toNat = r)
    (ho : ∀ b, b ≠ a.toNat → Memory.read reg b = Memory.read s.reg b) :
    ByteRequestRan s (s.byteRequest k) r qs cmd (recs ++ [{ kind := .rval, id := s.sel, val := r }]) := by
  have e : s.byteRequest k
      = { s.afterRead reg qs cmd (recs ++ [{ kind := .rval, id := s.sel, val := r }]) with replies := s.replies ++ [r] } := by
    subst hr
    unfold State.byteRequest
    rw [State.atSel_of_addr ha, hk]
    simp [State.afterRead, State.reply, State.trace, State.cell]
  rw [e]
  exact
    { reply := rfl
      cell := by
        show Memory.read reg _ = r
        rw [ha, hr]
      otherCells := fun b hb => ho b (by omega)
      requests := rfl
      flags := rfl
      records := (EventQueue.foldl_enqueue (QLive.toNat_le _) _ s.queue hs.2).1
      sel := rfl
      aset := rfl
      fault := rfl
      sink := rfl
      queries := rfl
      draws := rfl
      setup := ⟨rfl, rfl, rfl, rfl, rfl, rfl⟩ }

/-! ### Every instruction's effect -/

/-- The effect of a handler instruction on a ready state (DEQ has none: it is the background loop's). -/
def handlerEffect : Instr → State → State
  | .rxAddr b => fun s => { s with sel := b, aset := true }
  | .rxData v => fun s => s.dataByte v (runWritePhase v)
  | .req => fun s => s.byteRequest runReadPhase
  | .fin => fun s => { s with aset := false }
  | .deq => id
  | .gpioClr v => fun s => s.dataByte v (writeCommand .gpioClr v)
  | .gpioSet v => fun s => s.dataByte v (writeCommand .gpioSet v)
  | .bankClr v => fun s => s.dataByte v (writeCommand .bankClr v)
  | .dirOut v => fun s => s.dataByte v (writeCommand .dirOut v)
  | .dirIn v => fun s => s.dataByte v (writeCommand .dirIn v)
  | .drive0 v => fun s => s.dataByte v (writeCommand .drive0 v)
  | .drive1 v => fun s => s.dataByte v (writeCommand .drive1 v)
  | .drive2 v => fun s => s.dataByte v (writeCommand .drive2 v)
  | .drive3 v => fun s => s.dataByte v (writeCommand .drive3 v)
  | .pullUp v => fun s => s.dataByte v (writeCommand .pullUp v)
  | .pullNone v => fun s => s.dataByte v (writeCommand .pullNone v)
  | .pullDown v => fun s => s.dataByte v (writeCommand .pullDown v)
  | .padPrepare v => fun s => s.dataByte v (writeCommand .padPrepare v)
  | .padApply v => fun s => s.dataByte v (writeCommand .padApply v)
  | .port0Dir v => fun s => s.dataByte v (writeCommand .port0Dir v)
  | .port0Out v => fun s => s.dataByte v (writeCommand .port0Out v)
  | .port1Dir v => fun s => s.dataByte v (writeCommand .port1Dir v)
  | .port1Out v => fun s => s.dataByte v (writeCommand .port1Out v)
  | .verMajor => fun s => s.byteRequest (readCommand .verMajor)
  | .verMinor => fun s => s.byteRequest (readCommand .verMinor)
  | .getBank => fun s => s.byteRequest (readCommand .getBank)
  | .getPort0 => fun s => s.byteRequest (readCommand .getPort0)
  | .getPort1 => fun s => s.byteRequest (readCommand .getPort1)
  | .getTrue => fun s => s.byteRequest (readCommand .getTrue)
  | .getDir => fun s => s.byteRequest (readCommand .getDir)
  | .getStrength => fun s => s.byteRequest (readCommand .getStrength)
  | .getPull => fun s => s.byteRequest (readCommand .getPull)
  | .getPad => fun s => s.byteRequest (readCommand .getPad)
  | .status => fun s => s.byteRequest (readCommand .status)

theorem exec_handler {i : Instr} (h : i ≠ .deq) (s : State) : exec i s = s.handler (handlerEffect i) := by
  cases i <;> first | rfl | exact absurd rfl h

/-- A handler instruction completes in every state in which the handler has a step. -/
theorem exec_ready {i : Instr} {s : State} (h : i ≠ .deq) (hs : s.Ready) : exec i s = .next (handlerEffect i s) :=
  (exec_handler h s).trans (State.handler_ready hs _)

theorem exec_writeCmd (m : WriteCmd) (v : Byte) (s : State) :
    exec (m.instr v) s = s.handler fun s => s.dataByte v (writeCommand m v) := by
  cases m <;> rfl

theorem exec_readCmd (m : ReadCmd) (s : State) : exec m.instr s = s.handler fun s => s.byteRequest (readCommand m) := by
  cases m <;> rfl

/-- If an instruction answers a next state, it is a Dequeue of a booted machine or a handler instruction of a ready one. -/
theorem exec_next {i : Instr} {s t : State} (h : exec i s = .next t) :
    (i = .deq ∧ s.booted = true ∧ t = s.dequeue) ∨ (i ≠ .deq ∧ s.Ready ∧ t = handlerEffect i s) := by
  by_cases hd : i = .deq
  · subst hd
    refine .inl ⟨rfl, ?_⟩
    change execDeq s = .next t at h
    unfold execDeq at h
    split at h
    · cases h
    · exact ⟨‹_›, (Host.Outcome.next.inj h).symm⟩
  · rw [exec_handler hd] at h
    exact .inr ⟨hd, State.handler_next h⟩

/-- A handler instruction is an address byte, a FIN, a data byte or a byte request; and what the latter two run is one of
the two shapes of effect. -/
theorem handlerEffect_cases {i : Instr} (h : i ≠ .deq) (s : State) :
    (∃ b, i = .rxAddr b ∧ handlerEffect i s = { s with sel := b, aset := true })
    ∨ (i = .fin ∧ handlerEffect i s = { s with aset := false })
    ∨ ((∀ b, i ≠ .rxAddr b) ∧ i ≠ .fin ∧ i ≠ .req ∧ (∀ m : ReadCmd, i ≠ m.instr) ∧
        ∃ v k, handlerEffect i s = s.dataByte v k ∧ ∀ u : State, ∃ reqs cmd recs, k u = u.afterWrite reqs cmd recs
          ∧ reqs.length ≤ 1 ∧ (cmd = true → u.portOk = false ∨ u.params.unmatchedRaisesCmd = true)
          ∧ (u.portOk = false → ∀ mask value, GpioRequest.dirMasked mask value ∉ reqs))
    ∨ ((∀ b, i ≠ .rxAddr b) ∧ i ≠ .fin ∧
        ∃ k, handlerEffect i s = s.byteRequest k ∧ ∀ (a : RegAddr) (u : State), ∃ reg qs cmd recs,
          k a u = u.afterRead reg qs cmd recs ∧ (reg = u.reg ∨ ∃ r, reg = Memory.write u.reg a.toNat r)
          ∧ (cmd = true → u.portOk = false ∨ u.params.unmatchedRaisesCmd = true)) := by
  have hw : ∀ (m : WriteCmd) (v : Byte) (u : State), ∃ reqs cmd recs, writeCommand m v u = u.afterWrite reqs cmd recs
      ∧ reqs.length ≤ 1 ∧ (cmd = true → u.portOk = false ∨ u.params.unmatchedRaisesCmd = true)
      ∧ (u.portOk = false → ∀ mask value, GpioRequest.dirMasked mask value ∉ reqs) := fun m v u => by
    obtain ⟨reqs, cmd, recs, h1, h2, h3, h4⟩ := writeCommand_cases m v u
    exact ⟨reqs, cmd, recs, h1, h2, fun hc => .inl (h3 hc), h4⟩
  have hr : ∀ (m : ReadCmd) (a : RegAddr) (u : State), ∃ reg qs cmd recs, readCommand m a u = u.afterRead reg qs cmd recs
      ∧ (reg = u.reg ∨ ∃ r, reg = Memory.write u.reg a.toNat r)
      ∧ (cmd = true → u.portOk = false ∨ u.params.unmatchedRaisesCmd = true) := fun m a u => by
    obtain ⟨reg, qs, cmd, recs, h1, h2, h3⟩ := readCommand_cases m a u
    exact ⟨reg, qs, cmd, recs, h1, h2, fun hc => .inl (h3 hc)⟩
  cases i
  case rxAddr b => exact .inl ⟨b, rfl, rfl⟩
  case fin => exact .inr (.inl ⟨rfl, rfl⟩)
  case deq => exact absurd rfl h
  case rxData v =>
    exact .inr (.inr (.inl ⟨by simp, by simp, by simp, fun m => by cases m <;> simp [ReadCmd.instr], v, _, rfl,
      runWritePhase_cases v⟩))
  case req => exact .inr (.inr (.inr ⟨by simp, by simp, _, rfl, runReadPhase_cases⟩))
  case verMajor | verMinor | getBank | getPort0 | getPort1 | getTrue | getDir | getStrength | getPull | getPad | status =>
    exact .inr (.inr (.inr ⟨by simp, by simp, _, rfl, hr _⟩))
  all_goals
    exact .inr (.inr (.inl ⟨by simp, by simp, by simp, fun m => by cases m <;> simp [ReadCmd.instr], _, _, rfl, hw _ _⟩))

/-- A Dequeue completes in every booted state. -/
theorem exec_deq {s : State} (h : s.booted = true) : exec .deq s = .next s.dequeue := by
  show execDeq s = _
  unfold execDeq
  rw [h]

/-- What every handler instruction leaves alone: parameters, identity, boot inputs, schedule, the delivered records, and every
flag but `cmd`. -/
theorem handlerEffect_keeps {i : Instr} (hd : i ≠ .deq) (s : State) :
    SameSetup s (handlerEffect i s) ∧ (∃ c, (handlerEffect i s).flags = { s.flags with cmd := s.flags.cmd || c })
      ∧ (handlerEffect i s).sink = s.sink := by
  rcases handlerEffect_cases hd s with ⟨b, -, e⟩ | ⟨-, e⟩ | ⟨-, -, -, -, v, k, e, hk⟩ | ⟨-, -, k, e, hk⟩
  · rw [e]; exact ⟨⟨rfl, rfl, rfl, rfl, rfl, rfl⟩, ⟨false, by simp⟩, rfl⟩
  · rw [e]; exact ⟨⟨rfl, rfl, rfl, rfl, rfl, rfl⟩, ⟨false, by simp⟩, rfl⟩
  · rw [e]
    unfold State.dataByte
    rcases State.atSel_cases s (fun a s => k (s.setCell a v)) with ⟨ho, e2⟩ | ⟨a, ha, e2⟩
    · rw [e2]; exact ⟨⟨rfl, rfl, rfl, rfl, rfl, rfl⟩, ⟨false, by simp⟩, rfl⟩
    · rw [e2]
      obtain ⟨reqs, cmd, recs, e3, -, hc, -⟩ := hk (s.setCell a v)
      rw [e3]; exact ⟨⟨rfl, rfl, rfl, rfl, rfl, rfl⟩, ⟨cmd, rfl⟩, rfl⟩
  · rw [e]
    unfold State.byteRequest
    rcases State.atSel_cases s (fun a s =>
        let t := k a s
        (t.reply (t.cell a)).trace { kind := .rval, id := t.sel, val := t.cell a }) with ⟨ho, e2⟩ | ⟨a, ha, e2⟩
    · rw [e2]; exact ⟨⟨rfl, rfl, rfl, rfl, rfl, rfl⟩, ⟨false, by simp⟩, rfl⟩
    · rw [e2]
      obtain ⟨reg, qs, cmd, recs, e3, hreg, hc⟩ := hk a s
      simp only [e3]; exact ⟨⟨rfl, rfl, rfl, rfl, rfl, rfl⟩, ⟨cmd, rfl⟩, rfl⟩

/-- What every handler instruction does to the queue: some records are enqueued. -/
theorem handlerEffect_records {i : Instr} (hd : i ≠ .deq) (s : State) :
    ∃ recs : List Record,
      (handlerEffect i s).queue = recs.foldl (fun q r => (q.enqueue s.params.qLive.toNat r).2) s.queue := by
  rcases handlerEffect_cases hd s with ⟨b, rfl, e⟩ | ⟨rfl, e⟩ | ⟨h1, h2, h3, h4, v, k, e, hk⟩ | ⟨h1, h2, k, e, hk⟩
  · rw [e]; exact ⟨[], rfl⟩
  · rw [e]; exact ⟨[], rfl⟩
  · rw [e]
    unfold State.dataByte
    rcases State.atSel_cases s (fun a s => k (s.setCell a v)) with ⟨ho, e2⟩ | ⟨a, ha, e2⟩
    · rw [e2]; exact ⟨[], rfl⟩
    · obtain ⟨reqs, cmd, recs, e3, hl, -, hp⟩ := hk (s.setCell a v)
      rw [e2, e3]; exact ⟨recs, rfl⟩
  · rw [e]
    unfold State.byteRequest
    rcases State.atSel_cases s (fun a s =>
        let t := k a s
        (t.reply (t.cell a)).trace { kind := .rval, id := t.sel, val := t.cell a }) with ⟨ho, e2⟩ | ⟨a, ha, e2⟩
    · rw [e2]; exact ⟨[], rfl⟩
    · obtain ⟨reg, qs, cmd, recs, e3, hreg, -⟩ := hk a s
      rw [e2]; simp only [e3]
      refine ⟨recs ++ [{ kind := .rval, id := s.sel, val := Memory.read reg a.toNat }], ?_⟩
      rw [List.foldl_append]; rfl

/-- Every handler instruction keeps the storage in form. -/
theorem handlerEffect_storage {i : Instr} (hd : i ≠ .deq) {s : State} (h : s.StorageWf) :
    (handlerEffect i s).StorageWf := by
  obtain ⟨recs, hq⟩ := handlerEffect_records hd s
  refine ⟨?_, by
    rw [(handlerEffect_keeps hd s).1.params, hq]
    exact (EventQueue.foldl_enqueue (QLive.toNat_le _) recs s.queue h.2).2⟩
  have hw : ∀ (a : RegAddr) (v : Byte), (Memory.write s.reg a.toNat v).wf = true := fun a v =>
    Memory.write_wf h.1 v (by simpa [Config.nRegs] using a.isLt)
  rcases handlerEffect_cases hd s with ⟨b, rfl, e⟩ | ⟨rfl, e⟩ | ⟨-, -, -, -, v, k, e, hk⟩ | ⟨-, -, k, e, hk⟩
  · rw [e]
    exact h.1
  · rw [e]
    exact h.1
  · rw [e]
    unfold State.dataByte
    rcases State.atSel_cases s (fun a s => k (s.setCell a v)) with ⟨-, e2⟩ | ⟨a, -, e2⟩
    · rw [e2]
      exact h.1
    · obtain ⟨reqs, cmd, recs, e3, -⟩ := hk (s.setCell a v)
      rw [e2, e3]
      exact hw a v
  · rw [e]
    unfold State.byteRequest
    rcases State.atSel_cases s (fun a s =>
        let t := k a s
        (t.reply (t.cell a)).trace { kind := .rval, id := t.sel, val := t.cell a }) with ⟨-, e2⟩ | ⟨a, -, e2⟩
    · rw [e2]
      exact h.1
    · obtain ⟨reg, qs, cmd, recs, e3, hreg, -⟩ := hk a s
      rw [e2]
      simp only [e3]
      rcases hreg with rfl | ⟨r, rfl⟩
      · exact h.1
      · exact hw a r

/-- A data byte at a write-phase ID runs that command. -/
theorem State.dataByte_command {s : State} {m : WriteCmd} (h : s.params.wcmd s.sel = some m) (v : Byte) :
    s.dataByte v (runWritePhase v) = s.dataByte v (writeCommand m v) := by
  unfold State.dataByte State.atSel
  cases regAddr? s.sel with
  | none => rfl
  | some a => simp only [runWritePhase, State.setCell_params, State.setCell_sel, h]

/-- A byte request at a read-phase ID runs that command. -/
theorem State.byteRequest_command {s : State} {m : ReadCmd} (h : s.params.rcmd s.sel = some m) :
    s.byteRequest runReadPhase = s.byteRequest (readCommand m) := by
  unfold State.byteRequest State.atSel
  cases regAddr? s.sel with
  | none => rfl
  | some a => simp only [runReadPhase, h]

end Sys2Proof.Machine
end

