-- ==== Sys2Proof/Laws/PerInstr.lean ====
section
/-! SUPPORT. Statements about every instruction as syntax, one lemma per constructor. -/

namespace Sys2Proof.Laws.EncodeAddress

/-- Encoding a well-formed instruction keeps the address in force. -/
def Statement (i : Instr) : Prop :=
  ∀ (p : Params) (sel : Byte), i.WellFormed p sel = true → (encode p sel i).sel = sel

theorem rxAddr (b : Byte) : Statement (.rxAddr b) := fun _ _ _ => rfl
theorem rxData (v : Byte) : Statement (.rxData v) := fun _ _ _ => rfl
theorem req : Statement .req := fun _ _ _ => rfl
theorem fin : Statement .fin := fun _ _ _ => rfl
theorem deq : Statement .deq := fun _ _ _ => rfl
theorem gpioClr (v : Byte) : Statement (.gpioClr v) := fun _ _ h => (beq_iff_eq.mp h).symm
theorem gpioSet (v : Byte) : Statement (.gpioSet v) := fun _ _ h => (beq_iff_eq.mp h).symm
theorem bankClr (v : Byte) : Statement (.bankClr v) := fun _ _ h => (beq_iff_eq.mp h).symm
theorem dirOut (v : Byte) : Statement (.dirOut v) := fun _ _ h => (beq_iff_eq.mp h).symm
theorem dirIn (v : Byte) : Statement (.dirIn v) := fun _ _ h => (beq_iff_eq.mp h).symm
theorem drive0 (v : Byte) : Statement (.drive0 v) := fun _ _ h => (beq_iff_eq.mp h).symm
theorem drive1 (v : Byte) : Statement (.drive1 v) := fun _ _ h => (beq_iff_eq.mp h).symm
theorem drive2 (v : Byte) : Statement (.drive2 v) := fun _ _ h => (beq_iff_eq.mp h).symm
theorem drive3 (v : Byte) : Statement (.drive3 v) := fun _ _ h => (beq_iff_eq.mp h).symm
theorem pullUp (v : Byte) : Statement (.pullUp v) := fun _ _ h => (beq_iff_eq.mp h).symm
theorem pullNone (v : Byte) : Statement (.pullNone v) := fun _ _ h => (beq_iff_eq.mp h).symm
theorem pullDown (v : Byte) : Statement (.pullDown v) := fun _ _ h => (beq_iff_eq.mp h).symm
theorem padPrepare (v : Byte) : Statement (.padPrepare v) := fun _ _ h => (beq_iff_eq.mp h).symm
theorem padApply (v : Byte) : Statement (.padApply v) := fun _ _ h => (beq_iff_eq.mp h).symm
theorem port0Dir (v : Byte) : Statement (.port0Dir v) := fun _ _ h => (beq_iff_eq.mp h).symm
theorem port0Out (v : Byte) : Statement (.port0Out v) := fun _ _ h => (beq_iff_eq.mp h).symm
theorem port1Dir (v : Byte) : Statement (.port1Dir v) := fun _ _ h => (beq_iff_eq.mp h).symm
theorem port1Out (v : Byte) : Statement (.port1Out v) := fun _ _ h => (beq_iff_eq.mp h).symm
theorem verMajor : Statement .verMajor := fun _ _ h => (beq_iff_eq.mp h).symm
theorem verMinor : Statement .verMinor := fun _ _ h => (beq_iff_eq.mp h).symm
theorem getBank : Statement .getBank := fun _ _ h => (beq_iff_eq.mp h).symm
theorem getPort0 : Statement .getPort0 := fun _ _ h => (beq_iff_eq.mp h).symm
theorem getPort1 : Statement .getPort1 := fun _ _ h => (beq_iff_eq.mp h).symm
theorem getTrue : Statement .getTrue := fun _ _ h => (beq_iff_eq.mp h).symm
theorem getDir : Statement .getDir := fun _ _ h => (beq_iff_eq.mp h).symm
theorem getStrength : Statement .getStrength := fun _ _ h => (beq_iff_eq.mp h).symm
theorem getPull : Statement .getPull := fun _ _ h => (beq_iff_eq.mp h).symm
theorem getPad : Statement .getPad := fun _ _ h => (beq_iff_eq.mp h).symm
theorem status : Statement .status := fun _ _ h => (beq_iff_eq.mp h).symm

end Sys2Proof.Laws.EncodeAddress
end

