-- ==== Sys2Proof/Laws/Step.lean ====
section
/-! SUPPORT. What a step can do, once. -/

namespace Sys2Proof.Machine

theorem step_boot {s : State} (h : s.booted = false) : step s = .next s.boot := by
  unfold step State.pending
  rw [h]

theorem step_idle {s : State} (h : s.booted = true) (hs : s.schedule = []) : step s = .next s := by
  unfold step State.pending
  rw [h, hs]

theorem step_reset {s : State} {identityIn : Byte} {wdogReason : Bool} {rest : List Input} (h : s.booted = true)
    (hs : s.schedule = .reset identityIn wdogReason :: rest) :
    step s = .next ({ s with schedule := rest }.restart identityIn wdogReason) := by
  unfold step State.pending
  rw [h, hs]

theorem step_passed {s : State} {e : Event} {rest : List Input} (h : s.booted = true) (hs : s.schedule = .event e :: rest)
    (he : forHandler e = true) (hf : s.fault ≠ none) : step s = .next { s with schedule := rest } := by
  unfold step State.pending
  rw [h, hs]
  simp [he, Option.isSome_iff_ne_none.mpr hf]

theorem step_event {s : State} {e : Event} {rest : List Input} (h : s.booted = true) (hs : s.schedule = .event e :: rest)
    (he : forHandler e = false ∨ s.fault = none) :
    step s = exec (decode s.params (s.fetchOf e)) { s with schedule := rest } := by
  unfold step State.pending
  rw [h, hs]
  rcases he with he | he <;> simp [he]

/-- A step that takes FIN. -/
theorem step_fin {s : State} {rest : List Input} (h : s.Ready) (hs : s.schedule = .event .fin :: rest) :
    step s = .next { s with schedule := rest, aset := false } :=
  (step_event h.1 hs (.inr h.2)).trans (exec_ready (i := .fin) (s := { s with schedule := rest }) (by simp) h)

/-- A step that takes a byte in IDLE. -/
theorem step_address {s : State} {b : Byte} {rest : List Input} (h : s.Ready) (ha : s.aset = false)
    (hs : s.schedule = .event (.rx b) :: rest) : step s = .next { s with schedule := rest, sel := b, aset := true } := by
  rw [step_event h.1 hs (.inr h.2)]
  simp only [decode, State.fetchOf, ha]
  exact exec_ready (i := .rxAddr b) (s := { s with schedule := rest }) (by simp) h

/-- A step that takes a byte in ADDR_SET, whatever the address. -/
theorem step_data {s : State} {v : Byte} {rest : List Input} (h : s.Ready) (ha : s.aset = true)
    (hs : s.schedule = .event (.rx v) :: rest) :
    step s = .next (({ s with schedule := rest } : State).dataByte v (runWritePhase v)) := by
  rw [step_event h.1 hs (.inr h.2)]
  have hd : decode s.params (s.fetchOf (.rx v))
      = match s.params.wcmd s.sel with
        | some m => m.instr v
        | none => .rxData v := if_pos ha
  rw [hd]
  cases hm : s.params.wcmd s.sel with
  | none => exact exec_ready (i := .rxData v) (s := { s with schedule := rest }) (by simp) h
  | some m =>
    rw [State.dataByte_command (s := { s with schedule := rest }) hm]
    exact (exec_writeCmd m v _).trans (State.handler_ready (s := { s with schedule := rest }) h _)

/-- A step that takes a byte request, whatever the address. -/
theorem step_request {s : State} {rest : List Input} (h : s.Ready) (hs : s.schedule = .event .req :: rest) :
    step s = .next (({ s with schedule := rest } : State).byteRequest runReadPhase) := by
  rw [step_event h.1 hs (.inr h.2)]
  simp only [decode, State.fetchOf]
  cases hm : s.params.rcmd s.sel with
  | none => exact exec_ready (i := .req) (s := { s with schedule := rest }) (by simp) h
  | some m =>
    rw [State.byteRequest_command (s := { s with schedule := rest }) hm]
    exact (exec_readCmd m _).trans (State.handler_ready (s := { s with schedule := rest }) h _)

/-- If a step answers a next state: boot, nothing, a reset, an event that passed by, or an instruction. -/
theorem step_next {s t : State} (h : step s = .next t) :
    (s.booted = false ∧ t = s.boot)
    ∨ (s.booted = true ∧ s.schedule = [] ∧ t = s)
    ∨ (s.booted = true ∧ ∃ identityIn wdogReason rest, s.schedule = .reset identityIn wdogReason :: rest
        ∧ t = { s with schedule := rest }.restart identityIn wdogReason)
    ∨ (s.booted = true ∧ ∃ e rest, s.schedule = .event e :: rest ∧
        ((s.fault ≠ none ∧ t = { s with schedule := rest })
          ∨ exec (decode s.params (s.fetchOf e)) { s with schedule := rest } = .next t)) := by
  rcases Bool.eq_false_or_eq_true s.booted with hb | hb
  case inr =>
    rw [step_boot hb] at h
    exact .inl ⟨hb, (Host.Outcome.next.inj h).symm⟩
  case inl =>
    cases hs : s.schedule with
    | nil =>
      rw [step_idle hb hs] at h
      exact .inr (.inl ⟨hb, rfl, (Host.Outcome.next.inj h).symm⟩)
    | cons i rest =>
      cases i with
      | reset a w =>
        rw [step_reset hb hs] at h
        exact .inr (.inr (.inl ⟨hb, a, w, rest, rfl, (Host.Outcome.next.inj h).symm⟩))
      | event e =>
        refine .inr (.inr (.inr ⟨hb, e, rest, rfl, ?_⟩))
        by_cases hp : forHandler e = true ∧ s.fault ≠ none
        · rw [step_passed hb hs hp.1 hp.2] at h
          exact .inl ⟨hp.2, (Host.Outcome.next.inj h).symm⟩
        · rw [step_event hb hs (by
            by_cases he : forHandler e = true
            · exact .inr (by simpa using fun hf => hp ⟨he, hf⟩)
            · exact .inl (by simpa using he))] at h
          exact .inr h

end Sys2Proof.Machine
end

