-- ==== Sys2Proof/Tests/Slice0.lean ====
section
/-! SUPPORT. Small tests of one step each, and for every statement with hypotheses a witness that meets them.
Expected results are those of 95_test_vectors.md, under its parameters P_ref, or hand calculation from the rules. -/

namespace Sys2Proof.Tests

open Sys2Proof Sys2Proof.Machine

/-! ### P_ref and the start states (95_test_vectors.md section 0) -/

/-- P_ref. -/
def pRef : Params where
  ids :=
    { gpioClr := 10, bankClr := 12, dirOut := 20, dirIn := 21, drive0 := 30, drive1 := 31, drive2 := 32, drive3 := 33,
      pullUp := 40, pullNone := 41, pullDown := 42, padPrepare := 52, padApply := 53, port0Out := 81,
      port1Dir := 82, port1Out := 83, verMinor := 2, getBank := 60, getPort0 := 61, getPort1 := 62,
      getTrue := 63, getDir := 64, getStrength := 65, getPull := 66, getPad := 67 }
  knownIdentities := [0x20, 0x21, 0x22, 0x23]
  portIdentity := 0x21
  versionMajor := 0x03
  versionMinor := 0x07

/-- The state before the boot with these inputs. -/
def unbooted (identityIn : Byte) (wdogReason : Bool) : State :=
  { State.reset with params := pRef, identity := identityIn, identityIn := identityIn, wdogReason := wdogReason }

def sPort : State := (unbooted 0x21 false).boot
def sOther : State := (unbooted 0x20 false).boot
def sBad : State := (unbooted 0x30 false).boot
def sBadWd : State := (unbooted 0x30 true).boot

/-- A state with `a` in force. -/
def at_ (s : State) (a : Byte) : State := { s with sel := a }

/-- A state with `a` in force and `v` in its cell. -/
def holding (s : State) (a v : Byte) : State := { s with sel := a, reg := [(a.toNat, v)] }

/-- The next state, if there is one. -/
def next? : Host.Outcome State Fault Refusal → Option State
  | .next t => some t
  | .fault _ => none
  | .refused _ => none

/-- What an instruction at `a` sends to the GPIO driver and traces. -/
def sent (s : State) (i : Instr) : Option (List GpioRequest × List Record) :=
  (next? (exec i s)).map fun t => (t.gpioLog, t.queue.contents)

/-- What an instruction replies, and traces. -/
def replied (s : State) (i : Instr) : Option (List Byte × List Record) :=
  (next? (exec i s)).map fun t => (t.replies, t.queue.contents)

/-- What an instruction asks of the GPIO driver. -/
def asked (s : State) (i : Instr) : Option (List GpioQuery) := (next? (exec i s)).map fun t => t.queryLog

/-- The trace of a write-phase command that ran. -/
def ran (id v : Byte) : List Record := [{ kind := .wcmd, id := id, val := v }]

/-! ### Parameters: one inadmissible set for each check (30_encoding.md R76, 00_scope.md R7) -/

theorem test_pRef_admissible : pRef.Admissible := by decide
theorem test_shared_id_refused : ¬ { pRef with ids := { pRef.ids with dirIn := 20 } }.Admissible := by decide
theorem test_fixed_id_reused_refused : ¬ { pRef with ids := { pRef.ids with getPad := 100 } }.Admissible := by decide
theorem test_unknown_port_identity_refused : ¬ { pRef with portIdentity := 0x30 }.Admissible := by decide
theorem test_short_port_shift_refused : ¬ { pRef with port1Shift := 7 }.Admissible := by decide
theorem test_shared_flag_bit_refused : ¬ { pRef with flagPos := { cmd := 0 } }.Admissible := by decide
theorem test_long_boot_records_refused :
    ¬ { pRef with bootRecords := List.replicate 65 ⟨.rval, 0, 0⟩ }.Admissible := by decide

/-! ### WellFormed: an ill-formed term for each check (30_encoding.md R77) -/

theorem test_rxData_at_write_id_refused : (Instr.rxData 5).WellFormed pRef 11 = false := by decide
theorem test_req_at_read_id_refused : Instr.req.WellFormed pRef 100 = false := by decide
theorem test_write_commands_off_their_id_refused : ∀ m ∈ WriteCmd.all, (m.instr 5).WellFormed pRef 50 = false := by decide
theorem test_read_commands_off_their_id_refused : ∀ m ∈ ReadCmd.all, m.instr.WellFormed pRef 50 = false := by decide
theorem test_commands_at_another_id_refused :
    (Instr.gpioClr 5).WellFormed pRef 11 = false ∧ (Instr.port1Dir 5).WellFormed pRef 80 = false
      ∧ Instr.status.WellFormed pRef 1 = false := by decide
theorem test_wellFormed_accepts :
    (Instr.rxData 5).WellFormed pRef 100 = true ∧ Instr.req.WellFormed pRef 11 = true
      ∧ (∀ m ∈ WriteCmd.all, (m.instr 255).WellFormed pRef (RegAddr.toByte (pRef.writeId m)) = true)
      ∧ (∀ m ∈ ReadCmd.all, m.instr.WellFormed pRef (RegAddr.toByte (pRef.readId m)) = true) := by decide

/-! ### Decoding: words written out from 30_encoding.md R70, R75, R79 and P_ref -/

theorem test_decode_bus_events :
    decode pRef ⟨false, 11, .rx 0x0B⟩ = .rxAddr 11 ∧ decode pRef ⟨true, 50, .rx 0x3C⟩ = .rxData 60
      ∧ decode pRef ⟨true, 63, .rx 5⟩ = .rxData 5 ∧ decode pRef ⟨false, 11, .req⟩ = .req
      ∧ decode pRef ⟨true, 200, .req⟩ = .req ∧ decode pRef ⟨true, 11, .fin⟩ = .fin
      ∧ decode pRef ⟨false, 11, .deq⟩ = .deq := by decide
theorem test_decode_level_bank_direction :
    decode pRef ⟨true, 0x0A, .rx 5⟩ = .gpioClr 5 ∧ decode pRef ⟨true, 0x0B, .rx 5⟩ = .gpioSet 5
      ∧ decode pRef ⟨true, 0x0C, .rx 9⟩ = .bankClr 9 ∧ decode pRef ⟨true, 0x14, .rx 3⟩ = .dirOut 3
      ∧ decode pRef ⟨true, 0x15, .rx 3⟩ = .dirIn 3 := by decide
theorem test_decode_drive_pull_pad :
    decode pRef ⟨true, 0x1E, .rx 4⟩ = .drive0 4 ∧ decode pRef ⟨true, 0x1F, .rx 4⟩ = .drive1 4
      ∧ decode pRef ⟨true, 0x20, .rx 4⟩ = .drive2 4 ∧ decode pRef ⟨true, 0x21, .rx 4⟩ = .drive3 4
      ∧ decode pRef ⟨true, 0x28, .rx 6⟩ = .pullUp 6 ∧ decode pRef ⟨true, 0x29, .rx 6⟩ = .pullNone 6
      ∧ decode pRef ⟨true, 0x2A, .rx 6⟩ = .pullDown 6 ∧ decode pRef ⟨true, 0x34, .rx 0x56⟩ = .padPrepare 0x56
      ∧ decode pRef ⟨true, 0x35, .rx 7⟩ = .padApply 7 := by decide
theorem test_decode_ports :
    decode pRef ⟨true, 0x50, .rx 0xFF⟩ = .port0Dir 0xFF ∧ decode pRef ⟨true, 0x51, .rx 0xA5⟩ = .port0Out 0xA5
      ∧ decode pRef ⟨true, 0x52, .rx 0x0F⟩ = .port1Dir 0x0F ∧ decode pRef ⟨true, 0x53, .rx 0x80⟩ = .port1Out 0x80 := by
  decide
theorem test_decode_read_commands :
    decode pRef ⟨false, 0x01, .req⟩ = .verMajor ∧ decode pRef ⟨false, 0x02, .req⟩ = .verMinor
      ∧ decode pRef ⟨false, 0x3C, .req⟩ = .getBank ∧ decode pRef ⟨false, 0x3D, .req⟩ = .getPort0
      ∧ decode pRef ⟨false, 0x3E, .req⟩ = .getPort1 ∧ decode pRef ⟨true, 0x3F, .req⟩ = .getTrue
      ∧ decode pRef ⟨false, 0x40, .req⟩ = .getDir ∧ decode pRef ⟨false, 0x41, .req⟩ = .getStrength
      ∧ decode pRef ⟨false, 0x42, .req⟩ = .getPull ∧ decode pRef ⟨false, 0x43, .req⟩ = .getPad
      ∧ decode pRef ⟨false, 0x64, .req⟩ = .status := by decide
theorem test_command_words_decode :
    decodeCommand pRef [0x35, 0x07, 0x34] = .ok (.padApply 7, [0x34])
      ∧ decodeCommand pRef [0x53, 0x80] = .ok (.port1Out 0x80, [])
      ∧ decodeCommand pRef [0x3F, 0x3F] = .ok (.getTrue, [0x3F]) := ⟨rfl, rfl, rfl⟩
theorem test_command_words_refused :
    decodeCommand pRef [] = .error .noBytes ∧ decodeCommand pRef [0x0A] = .error (.noDataByte .gpioClr)
      ∧ decodeCommand pRef [0x32, 1] = .error (.plainCell 0x32)
      ∧ decodeCommand pRef [0xC8, 1] = .error (.noRegister 0xC8) := ⟨rfl, rfl, rfl, rfl⟩
theorem test_table_words_decode :
    decodeTableWord 8 1 = some .verMajor ∧ decodeTableWord 8 11 = some (.gpioSet 0)
      ∧ decodeTableWord 8 80 = some (.port0Dir 0) ∧ decodeTableWord 8 100 = some .status
      ∧ decodeTableWord 16 0x050B = some (.gpioSet 5) := ⟨rfl, rfl, rfl, rfl, rfl⟩

/-! ### Bus events (95_test_vectors.md section 2.1) -/

/-- V-F1. -/
theorem test_rxAddr : next? (exec (.rxAddr 11) (at_ sPort 3)) = some { sPort with sel := 11, aset := true } := by decide
/-- V-F9: storing an address of 128 or more is no fault. -/
theorem test_rxAddr_out_of_range : (next? (exec (.rxAddr 0xC8) sPort)).map (fun t => (t.sel, t.fault)) = some (200, none) := by
  decide
/-- V-F2. -/
theorem test_rxData_plain_cell :
    (next? (exec (.rxData 0x3C) (at_ sPort 50))).map (fun t => (t.reg, t.queue.count, t.gpioLog)) = some ([(50, 0x3C)], 0, []) := by
  decide
/-- V-F10. -/
theorem test_rxData_out_of_range :
    next? (exec (.rxData 1) (at_ sPort 0xC8)) = some { sPort with sel := 0xC8, fault := some .addrRange } := by decide
/-- V-F15. -/
theorem test_req_at_write_id :
    replied { sPort with sel := 11, aset := true } .req = some ([0], [⟨.rval, 11, 0⟩]) := by decide
/-- V-F11. -/
theorem test_req_out_of_range :
    next? (exec .req (at_ sPort 128)) = some { sPort with sel := 128, fault := some .addrRange } := by decide
/-- V-F5, V-F4. -/
theorem test_fin : next? (exec .fin sPort) = some sPort
    ∧ next? (exec .fin { sPort with sel := 11, aset := true }) = some { sPort with sel := 11 } := by decide

/-! ### The queue (95_test_vectors.md section 2.4) -/

/-- The empty queue after these records were enqueued. -/
def filled (rs : List Record) : EventQueue := rs.foldl (fun q r => (q.enqueue 64 r).2) .empty

/-- The queue with the records `(WCMD, 11, 0)` to `(WCMD, 11, 63)`. -/
@[irreducible] def fullQueue : EventQueue := filled ((List.range 64).map fun i => ⟨.wcmd, 11, BitVec.ofNat 8 i⟩)

/-- V-F12: Dequeue still runs after a fault. -/
theorem test_deq_after_fault :
    (next? (exec .deq { sPort with
        fault := some .addrRange, queue := (EventQueue.empty.enqueue 64 ⟨.wcmd, 11, 5⟩).2 })).map
      (fun t => (t.sink, t.queue.count, t.fault)) = some ([⟨.wcmd, 11, 5⟩], 0, some .addrRange) := by decide
/-- V-Q4. -/
theorem test_deq_empty :
    next? (exec .deq { sPort with queue := { EventQueue.empty with head := 5, tail := 5 } })
      = some { sPort with queue := { EventQueue.empty with head := 5, tail := 5 } } := by decide
/-- V-Q2. -/
theorem test_enqueue_full : fullQueue.count = 64 ∧ fullQueue.tail = fullQueue.head
    ∧ (fullQueue.enqueue 64 ⟨.rval, 1, 2⟩).1 = false := by decide +kernel
/-- V-Q6: after one Dequeue the next record goes to slot 0. -/
theorem test_queue_wraps :
    fullQueue.dequeue.1 = some ⟨.wcmd, 11, 0⟩ ∧ fullQueue.dequeue.2.slot 0 = none
      ∧ (fullQueue.dequeue.2.enqueue 64 ⟨.rval, 1, 2⟩).2.slot 0 = some ⟨.rval, 1, 2⟩
      ∧ (fullQueue.dequeue.2.enqueue 64 ⟨.rval, 1, 2⟩).2.tail = 1 := by decide +kernel

/-! ### Write-phase commands (95_test_vectors.md section 2.2) -/

/-- V-W1. -/
theorem test_gpioClr : sent (at_ sPort 10) (.gpioClr 5) = some ([.put 5 0], ran 10 5) := by decide
/-- L1-1. -/
theorem test_gpioSet : sent (at_ sPort 11) (.gpioSet 5) = some ([.put 5 1], ran 11 5) := by decide
/-- V-W3. -/
theorem test_gpioSet_pin_unchecked : sent (at_ sPort 11) (.gpioSet 255) = some ([.put 255 1], ran 11 255) := by decide
/-- V-W6. -/
theorem test_bankClr_bank0 : sent (at_ sPort 12) (.bankClr 9) = some ([.putMasked 0x000FF 0], ran 12 9) := by decide
/-- V-W7. -/
theorem test_bankClr_bank1 : sent (at_ sPort 12) (.bankClr 10) = some ([.putMasked 0x3FC00 0], ran 12 10) := by decide
/-- V-W9. -/
theorem test_dirOut : sent (at_ sPort 20) (.dirOut 3) = some ([.setDir 3 .output], ran 20 3) := by decide
/-- V-W10. -/
theorem test_dirIn : sent (at_ sPort 21) (.dirIn 3) = some ([.setDir 3 .input], ran 21 3) := by decide
/-- V-W11. -/
theorem test_drive0 : sent (at_ sPort 30) (.drive0 4) = some ([.setDrive 4 0], ran 30 4) := by decide
/-- V-W12. -/
theorem test_drive1 : sent (at_ sPort 31) (.drive1 4) = some ([.setDrive 4 1], ran 31 4) := by decide
/-- V-W13. -/
theorem test_drive2 : sent (at_ sPort 32) (.drive2 4) = some ([.setDrive 4 2], ran 32 4) := by decide
/-- V-W14. -/
theorem test_drive3 : sent (at_ sPort 33) (.drive3 4) = some ([.setDrive 4 3], ran 33 4) := by decide
/-- V-W15. -/
theorem test_pullUp : sent (at_ sPort 40) (.pullUp 6) = some ([.setPull 6 .up], ran 40 6) := by decide
/-- V-W16. -/
theorem test_pullNone : sent (at_ sPort 41) (.pullNone 6) = some ([.setPull 6 .none], ran 41 6) := by decide
/-- V-W17. -/
theorem test_pullDown : sent (at_ sPort 42) (.pullDown 6) = some ([.setPull 6 .down], ran 42 6) := by decide
/-- V-W28. -/
theorem test_padPrepare : sent (at_ sPort 52) (.padPrepare 0x56) = some ([], ran 52 0x56) := by decide
/-- V-W29. -/
theorem test_padApply :
    sent { sPort with reg := [(52, 0x56)], sel := 53 } (.padApply 7) = some ([.setPad 7 0x56], ran 53 7) := by decide
/-- V-W30. -/
theorem test_padApply_unprepared : sent (at_ sPort 53) (.padApply 7) = some ([.setPad 7 0], ran 53 7) := by decide
/-- V-W22. -/
theorem test_port0Dir : sent (at_ sPort 80) (.port0Dir 0xFF) = some ([.dirMasked 0xFF 0xFF], ran 80 0xFF) := by decide
/-- V-W18, L1-3. -/
theorem test_port0Dir_rejected :
    sent (at_ sOther 80) (.port0Dir 0xFF) = some ([], [⟨.wrej, 80, 0xFF⟩])
      ∧ (next? (exec (.port0Dir 0xFF) (at_ sOther 80))).map (fun t => (t.flags.cmd, t.reg)) = some (true, [(80, 0xFF)]) := by
  decide
/-- V-W24. -/
theorem test_port0Out : sent (at_ sPort 81) (.port0Out 0xA5) = some ([.putMasked 0xFF 0xA5], ran 81 0xA5) := by decide
/-- V-W19. -/
theorem test_port0Out_rejected :
    sent (at_ sOther 81) (.port0Out 0xA5) = some ([], [⟨.wrej, 81, 0xA5⟩]) := by decide
/-- V-W25. -/
theorem test_port1Dir : sent (at_ sPort 82) (.port1Dir 0x0F) = some ([.dirMasked 0x3FC00 0x03C00], ran 82 0x0F) := by decide
/-- V-W20: `cfg` stays. -/
theorem test_port1Dir_rejected :
    (next? (exec (.port1Dir 0x0F) (at_ sBad 82))).map (fun t => (t.gpioLog, t.flags))
      = some ([], { cfg := true, cmd := true }) := by decide
/-- V-W27. -/
theorem test_port1Out : sent (at_ sPort 83) (.port1Out 0x80) = some ([.putMasked 0x3FC00 0x20000], ran 83 0x80) := by decide
/-- V-W21. -/
theorem test_port1Out_rejected : sent (at_ sOther 83) (.port1Out 0x80) = some ([], [⟨.wrej, 83, 0x80⟩]) := by decide

/-! ### Read-phase commands (95_test_vectors.md section 2.3) -/

/-- L1-2. -/
theorem test_verMajor : replied (at_ sPort 1) .verMajor = some ([3], [⟨.rcmd, 1, 3⟩, ⟨.rval, 1, 3⟩]) := by decide
/-- V-R2: the cell is overwritten. -/
theorem test_verMajor_overwrites : (next? (exec .verMajor (holding sPort 1 0x99))).map (·.reg) = some [(1, 3)] := by decide
/-- V-R3. -/
theorem test_verMinor : replied (at_ sPort 2) .verMinor = some ([7], [⟨.rcmd, 2, 7⟩, ⟨.rval, 2, 7⟩]) := by decide
/-- V-R4, V-R5. -/
theorem test_getBank : asked (holding sPort 60 9) .getBank = some [⟨.bank 0, 9⟩]
    ∧ asked (holding sPort 60 10) .getBank = some [⟨.bank 1, 10⟩] := by decide
/-- V-R7. -/
theorem test_getPort0 : asked (at_ sPort 61) .getPort0 = some [⟨.port 0, 0⟩] := by decide
/-- V-R6. -/
theorem test_getPort0_rejected :
    (next? (exec .getPort0 (holding sOther 61 0x44))).map (fun t => (t.replies, t.reg, t.flags.cmd, t.queryLog))
      = some ([0x44], [(61, 0x44)], true, []) := by decide
/-- V-R8. -/
theorem test_getPort1 : asked (at_ sPort 62) .getPort1 = some [⟨.port 1, 0⟩] := by decide
/-- V-R9. -/
theorem test_getPort1_rejected :
    replied (at_ sBad 62) .getPort1 = some ([0], [⟨.rrej, 62, 0⟩, ⟨.rval, 62, 0⟩]) := by decide
/-- V-R10. -/
theorem test_getTrue : asked (holding sPort 63 5) .getTrue = some [⟨.trueValue, 5⟩] := by decide
/-- V-R10: the reply is the answer, whatever it is. -/
theorem test_getTrue_replies_answer :
    (next? (exec .getTrue (holding sPort 63 5))).map (·.replies)
      = some [Memory.read (Memory.write [(63, 5)] 63 (Config.gpioAnswer 0 .trueValue 5)) 63] := rfl
/-- V-R11. -/
theorem test_getDir : asked (holding sPort 64 3) .getDir = some [⟨.dir, 3⟩] := by decide
/-- V-R12. -/
theorem test_getStrength : asked (holding sPort 65 4) .getStrength = some [⟨.drive, 4⟩] := by decide
/-- V-R13. -/
theorem test_getPull : asked (holding sPort 66 6) .getPull = some [⟨.pull, 6⟩] := by decide
/-- V-R14. -/
theorem test_getPad : asked (holding sPort 67 7) .getPad = some [⟨.pad, 7⟩] := by decide
/-- V-R18. -/
theorem test_status_cfg : replied (at_ sBad 100) .status = some ([1], [⟨.rcmd, 100, 1⟩, ⟨.rval, 100, 1⟩]) := by decide
/-- V-R20: the flags are `cfg`, `cmd` and `wdog`, and reading clears none. -/
theorem test_status_three_flags :
    (next? (exec .status { at_ sBadWd 100 with flags := { sBadWd.flags with cmd := true } })).map
      (fun t => (t.replies, t.flags.cmd)) = some ([0x0B], true) := by decide

/-! ### Boot and steps (95_test_vectors.md section 2.5) -/

/-- V-B1, V-B2, V-B3. -/
theorem test_boot_flags :
    (next? (step (unbooted 0x21 false))).map (fun t => (t.booted, t.portOk, t.flags)) = some (true, true, {})
      ∧ (next? (step (unbooted 0x30 true))).map (fun t => (t.portOk, t.flags)) = some (false, { cfg := true, wdog := true })
      ∧ (next? (step (unbooted 0x22 false))).map (fun t => (t.portOk, t.flags)) = some (false, {}) := by decide
/-- RESET_REGS (00_scope.md R7): the last byte listed for a cell counts. -/
theorem test_boot_loads_cells :
    (next? (step { unbooted 0x21 false with params := { pRef with resetRegs := [(3, 7), (127, 1), (3, 9)], resetSel := 5 } })).map
      (fun t => (t.reg, t.sel)) = some ([(3, 9), (127, 1)], 5) := by decide
/-- V-B4. -/
theorem test_reset_restarts :
    (next? (step { at_ sOther 80 with
        flags := { cmd := true }, reg := [(80, 255)], schedule := [.reset 0x22 true, .event .req] })).map
      (fun t => (t.booted, t.identityIn, t.wdogReason, t.reg)) = some (false, 0x22, true, []) := by
  decide
/-- L1-1 as a step: the data byte of `W 11 5`. -/
theorem test_step_runs_data_byte :
    (next? (step { sPort with sel := 11, aset := true, schedule := [.event (.rx 5), .event .fin] })).map
      (fun t => (t.gpioLog, t.schedule)) = some ([.put 5 1], [.event .fin]) := by decide
/-- P5: a bus event after a fault finds no handler. -/
theorem test_step_after_fault :
    (next? (step { at_ sPort 200 with aset := true, fault := some .addrRange, schedule := [.event .fin] })).map
      (fun t => (t.aset, t.fault, t.schedule)) = some (true, some .addrRange, []) := by decide

/-! ### Witnesses: a concrete state and operands that meet each statement's hypotheses -/

/-- One record, as the queue of a start state after `W 11 5`. -/
def oneQueued : EventQueue := (EventQueue.empty.enqueue 64 ⟨.wcmd, 11, 5⟩).2

theorem oneQueued_wf : oneQueued.Wf 64 := EventQueue.enqueue_wf _ le_rfl (EventQueue.empty_wf 64)

theorem filled_wf (rs : List Record) : (filled rs).Wf 64 :=
  (EventQueue.foldl_enqueue le_rfl rs .empty (EventQueue.empty_wf 64)).2

theorem fullQueue_wf : fullQueue.Wf 64 := by
  unfold fullQueue
  exact filled_wf _

theorem sPort_inv : sPort.Inv where
  storage := ⟨rfl, EventQueue.empty_wf 64⟩
  admissible := test_pRef_admissible
  noErr := rfl
  identityLatched _ := rfl
  cfgFlag _ := by
    have h : Known pRef 0x21 := ⟨0x21, by decide, by decide⟩
    exact iff_of_false (by decide) (not_not_intro h)
  wdogFlag _ := rfl
  cmdFlag h := by cases h
  faultAddress h := absurd rfl h

theorem unknown_identity : ¬ Known pRef 0x30 := by
  rintro ⟨a, ha, h⟩
  revert a
  decide

/-- At every command's own address, under the port identity and under another. -/
theorem witness_write_address (m : WriteCmd) :
    (at_ sPort (RegAddr.toByte (pRef.writeId m))).AtId (sPort.params.writeId m)
      ∧ (at_ sOther (RegAddr.toByte (pRef.writeId m))).AtId (sOther.params.writeId m) :=
  ⟨⟨⟨rfl, rfl⟩, ⟨rfl, EventQueue.empty_wf 64⟩, rfl⟩, ⟨⟨rfl, rfl⟩, ⟨rfl, EventQueue.empty_wf 64⟩, rfl⟩⟩

/-- At every command's own address with a byte other than 0 in its cell. -/
theorem witness_read_address (m : ReadCmd) (v : Byte) (hv : v ≠ 0) :
    (holding sPort (RegAddr.toByte (pRef.readId m)) v).AtId (sPort.params.readId m)
      ∧ (holding sOther (RegAddr.toByte (pRef.readId m)) v).AtId (sOther.params.readId m)
      ∧ (holding sPort (RegAddr.toByte (pRef.readId m)) v).cell (pRef.readId m) = v := by
  have hwf : Memory.wf [((RegAddr.toByte (pRef.readId m)).toNat, v)] = true := by
    simpa [Memory.wf, Memory.wfFrom, Memory.unlisted, Config.nRegs] using ⟨(pRef.readId m).isLt, hv⟩
  refine ⟨⟨⟨rfl, rfl⟩, ⟨hwf, EventQueue.empty_wf 64⟩, rfl⟩, ⟨⟨rfl, rfl⟩, ⟨hwf, EventQueue.empty_wf 64⟩, rfl⟩, ?_⟩
  simp [holding, State.cell, Memory.read]

theorem witness_DecodeEncodeRoundTrip :
    pRef.Admissible ∧ (Instr.gpioSet 255).WellFormed pRef 11 = true ∧ (Instr.rxData 255).WellFormed pRef 127 = true
      ∧ Instr.status.WellFormed pRef 100 = true := by decide
theorem witness_EncodeDecodeRoundTrip : (⟨true, 11, .rx 5⟩ : Fetch).event = .rx 5 := rfl
theorem witness_CommandWordRoundTrip : pRef.Admissible := test_pRef_admissible
theorem witness_CommandIdsDistinctAndFixed :
    pRef.Admissible ∧ RegAddr.toByte (pRef.commandId (.write .gpioSet)) = RegAddr.toByte (pRef.commandId (.write .gpioSet)) := by
  decide
theorem witness_StepRunsDecodedInstruction :
    (sPort.booted = true ∧ { sPort with schedule := [.event (.rx 5)] }.schedule = [.event (.rx 5)] ∧ sPort.fault = none)
      ∧ ({ sPort with fault := some .addrRange, schedule := [.event .deq] }.booted = true
          ∧ { sPort with fault := some .addrRange, schedule := [.event .deq] }.schedule = [.event .deq]) :=
  ⟨⟨rfl, rfl, rfl⟩, rfl, rfl⟩
theorem witness_TableWordRunsNext :
    decodeTableWord 8 100 = some .status ∧ decodeTableWord 16 0xFF50 = some (.port0Dir 255)
      ∧ (∃ t, step (State.reset.withFetchWord 8 100) = .next t) ∧ ∃ t, step (State.reset.withFetchWord 16 0xFF50) = .next t :=
  ⟨rfl, rfl, ⟨_, rfl⟩, ⟨_, rfl⟩⟩
theorem witness_StepWithoutEventForHandler :
    sPort.booted = true ∧ sPort.schedule = [] ∧ ∃ s : State, s.booted = true ∧ s.schedule = [.event .fin]
      ∧ Event.fin ≠ .deq ∧ s.fault ≠ none :=
  ⟨rfl, rfl, { sPort with fault := some .addrRange, schedule := [.event .fin] }, rfl, rfl, by decide, by decide⟩
theorem witness_BootClearsFlagsAndSetsWatchdog :
    (unbooted 0x30 true).booted = false ∧ ¬ Known pRef (unbooted 0x30 true).identityIn := ⟨rfl, unknown_identity⟩
theorem witness_BootRebuildsState :
    (unbooted 0x21 false).booted = false ∧ (unbooted 0x21 false).params.resetRegs = []
      ∧ (unbooted 0x21 false).params.bootRecords = [] := ⟨rfl, rfl, rfl⟩
theorem witness_ResetRestartsDevice : ∃ s : State, s.booted = true ∧ s.schedule = [.reset 0x22 true, .event .req]
    ∧ s.params.bootRecords = [⟨.rval, 1, 2⟩] ∧ s.fault ≠ none :=
  ⟨{ sPort with
      params := { pRef with bootRecords := [⟨.rval, 1, 2⟩] }
      fault := some .addrRange
      schedule := [.reset 0x22 true, .event .req] }, rfl, rfl, rfl, by decide⟩
theorem witness_StepKeepsInvariant : sPort.Inv ∧ ∃ t, step sPort = .next t := ⟨sPort_inv, _, rfl⟩
theorem witness_StickyFlags :
    (∃ s t : State, s.booted = true ∧ NoResetNext s ∧ step s = .next t
      ∧ s.flags = { cfg := true, cmd := true, err := true, wdog := true })
    ∧ ∃ t, (unbooted 0x30 true).booted = false ∧ step (unbooted 0x30 true) = .next t :=
  ⟨⟨{ sPort with flags := ⟨true, true, true, true⟩, schedule := [.event (.rx 11)] }, _, rfl,
      (by intro a w r h; simp at h), rfl, rfl⟩, _, rfl, rfl⟩
theorem witness_IdentityLatchedAtBoot :
    (∃ t, (unbooted 0x21 false).booted = false ∧ step (unbooted 0x21 false) = .next t)
    ∧ (∃ s t : State, s.booted = true ∧ NoResetNext s ∧ step s = .next t ∧ s.schedule = [.event (.rx 11)])
    ∧ pRef.Admissible ∧ sBad.params = pRef ∧ ¬ Known pRef sBad.identity :=
  ⟨⟨_, rfl, rfl⟩, ⟨{ sPort with schedule := [.event (.rx 11)] }, _, rfl, (by intro a w r h; simp at h), rfl, rfl⟩,
    test_pRef_admissible, rfl, unknown_identity⟩
theorem witness_ParametersNeverChange : ∃ s t : State, s.schedule = [.reset 0x21 false] ∧ step s = .next t :=
  ⟨{ sPort with schedule := [.reset 0x21 false] }, _, rfl, rfl⟩
theorem witness_TransactionStateWriters :
    (∃ t, exec (.rxAddr 255) sPort = .next t) ∧ (∃ t, exec .fin sPort = .next t)
      ∧ ∃ t, exec (.gpioSet 5) (at_ sPort 11) = .next t := ⟨⟨_, rfl⟩, ⟨_, rfl⟩, _, rfl⟩
theorem witness_RegisterFileWriters :
    sPort.reg.wf = true ∧ (∃ t, exec (.rxData 5) (at_ sPort 127) = .next t) ∧ (∃ t, exec .deq sPort = .next t)
      ∧ (127 : Nat) = (at_ sPort 127).sel.toNat ∧ (126 : Nat) ≠ (at_ sPort 127).sel.toNat :=
  ⟨rfl, ⟨_, rfl⟩, ⟨_, rfl⟩, by decide, by decide⟩
theorem witness_RequestsOnlyAppended :
    (∃ t, exec (.port0Dir 255) (at_ sOther 80) = .next t) ∧ sOther.portOk = false
      ∧ (∃ t, exec (WriteCmd.port1Out.instr 255) (at_ sOther 83) = .next t)
      ∧ (∃ t, exec (.rxData 255) (at_ sOther 83) = .next t) ∧ sOther.params.wcmd (at_ sOther 83).sel = some .port1Out
      ∧ (∃ t, exec ReadCmd.getTrue.instr (at_ sPort 63) = .next t) ∧ ∃ t, exec .req sPort = .next t :=
  ⟨⟨_, rfl⟩, rfl, ⟨_, rfl⟩, ⟨_, rfl⟩, by decide, ⟨_, rfl⟩, _, rfl⟩
theorem witness_OnlyOutOfRangeFaults :
    (∃ t, exec (.rxData 5) (at_ sPort 128) = .next t ∧ sPort.fault = none ∧ t.fault ≠ none)
      ∧ ∃ s t : State, exec .deq s = .next t ∧ s.fault ≠ none :=
  ⟨⟨_, rfl, rfl, by decide⟩, { sPort with fault := some .addrRange }, _, rfl, by decide⟩
theorem witness_ReadyInstructionsComplete : sPort.Ready ∧ { sPort with fault := some .addrRange }.booted = true :=
  ⟨⟨rfl, rfl⟩, rfl⟩
theorem witness_HandlerHasNoStepUnlessReady :
    (unbooted 0x21 false).booted = false ∧ ∃ s : State, s.booted = true ∧ s.fault = some .addrRange ∧ Instr.fin ≠ .deq :=
  ⟨rfl, { sPort with fault := some .addrRange }, rfl, rfl, by decide⟩
theorem witness_LostTraceChangesNothingElse :
    (∃ t, exec .status (at_ sPort 100) = .next t)
      ∧ exec .status { sPort with fault := some .addrRange } = .fault .addrRange
      ∧ exec .status (unbooted 0x21 false) = .refused .beforeBoot := ⟨⟨_, rfl⟩, rfl, rfl⟩
theorem witness_RegisterCellsIndependent :
    sPort.reg.wf = true ∧ (127 : RegAddr) ≠ 0 ∧ (at_ sPort 127).Ready ∧ (at_ sPort 127).sel = RegAddr.toByte 127 := by
  decide
theorem witness_EnqueueKeepsArrivalOrder :
    (EventQueue.empty.Wf QLive.live63.toNat ∧ EventQueue.empty.count < QLive.live63.toNat)
      ∧ (fullQueue.dequeue.2.Wf QLive.live64.toNat ∧ fullQueue.dequeue.2.count = 63) :=
  ⟨⟨EventQueue.empty_wf 63, by decide⟩,
    (EventQueue.dequeue_oldest (live := 64) le_rfl fullQueue_wf (by decide +kernel)).choose_spec.2.2, by decide +kernel⟩
theorem witness_FullQueueDropsNewRecord :
    fullQueue.count = 64 ∧ fullQueue.count = QLive.live64.toNat
      ∧ { sPort with queue := fullQueue }.queue.count = sPort.params.qLive.toNat := by decide +kernel
theorem witness_DequeueTakesOldest :
    (sPort.booted = true ∧ sPort.queue.count = 0)
      ∧ ({ sPort with queue := fullQueue }.booted = true ∧ fullQueue.Wf sPort.params.qLive.toNat ∧ fullQueue.count ≠ 0) :=
  ⟨⟨rfl, rfl⟩, rfl, fullQueue_wf, by decide +kernel⟩
theorem witness_FifoOrderAlongRuns : ∃ s t : State, s.booted = true ∧ s.StorageWf ∧ NoReset s
    ∧ Host.Core.run Sys2Proof.core 2 s = .next t ∧ s.queue.contents ≠ [] ∧ s.schedule = [.event (.rx 11), .event .deq] :=
  ⟨{ sPort with queue := oneQueued, schedule := [.event (.rx 11), .event .deq] }, _, rfl, ⟨rfl, oneQueued_wf⟩,
    by intro a w h; simp at h, rfl, by decide, rfl⟩
theorem witness_AddressByteSelects : sPort.Ready := ⟨rfl, rfl⟩
theorem witness_FinishedTransactionKeepsSel : sPort.Ready ∧ sPort.aset = false := ⟨⟨rfl, rfl⟩, rfl⟩
/-- The plain cell 127 and the read-phase ID 100; then 127 and the write-phase ID 11. -/
theorem witness_DataByteAtPlainAddressOnlyStores :
    (at_ sPort 127).Ready ∧ (at_ sPort 127).StorageWf ∧ (at_ sPort 127).sel.toNat < 128
      ∧ pRef.wcmd 127 = none ∧ pRef.wcmd 100 = none := ⟨⟨rfl, rfl⟩, ⟨rfl, EventQueue.empty_wf 64⟩, by decide⟩
theorem witness_RequestAtPlainAddressReturnsCell :
    (at_ sPort 127).Ready ∧ (at_ sPort 127).StorageWf ∧ (at_ sPort 127).sel.toNat < 128
      ∧ pRef.rcmd 127 = none ∧ pRef.rcmd 11 = none := ⟨⟨rfl, rfl⟩, ⟨rfl, EventQueue.empty_wf 64⟩, by decide⟩
theorem witness_EventAtCommandAddressRunsCommand :
    pRef.wcmd (at_ sPort 83).sel = some .port1Out ∧ pRef.rcmd (at_ sPort 100).sel = some .status ∧ pRef.Admissible := by
  decide
theorem witness_OutOfRangeAccessOnlySetsFault :
    (at_ sPort 128).Ready ∧ 128 ≤ (at_ sPort 128).sel.toNat ∧ 128 ≤ (at_ sPort 255).sel.toNat :=
  ⟨⟨rfl, rfl⟩, by decide, by decide⟩
theorem witness_GpioLevelCommandsDrivePin :
    (at_ sPort 10).AtId (sPort.params.writeId .gpioClr) ∧ (at_ sPort 11).AtId (sPort.params.writeId .gpioSet) :=
  ⟨(witness_write_address .gpioClr).1, (witness_write_address .gpioSet).1⟩
theorem witness_BankClearDrivesBankLow :
    (at_ sPort 12).AtId (sPort.params.writeId .bankClr) ∧ (9 : Byte).toNat < 10 ∧ 10 ≤ (10 : Byte).toNat :=
  ⟨(witness_write_address .bankClr).1, by decide, by decide⟩
theorem witness_DirectionCommandsSetDirection :
    (at_ sPort 20).AtId (sPort.params.writeId .dirOut) ∧ (at_ sPort 21).AtId (sPort.params.writeId .dirIn) :=
  ⟨(witness_write_address .dirOut).1, (witness_write_address .dirIn).1⟩
theorem witness_DriveCommandsSetStrength :
    (at_ sPort 30).AtId (sPort.params.writeId .drive0) ∧ (at_ sPort 31).AtId (sPort.params.writeId .drive1)
      ∧ (at_ sPort 32).AtId (sPort.params.writeId .drive2) ∧ (at_ sPort 33).AtId (sPort.params.writeId .drive3) :=
  ⟨(witness_write_address .drive0).1, (witness_write_address .drive1).1, (witness_write_address .drive2).1,
    (witness_write_address .drive3).1⟩
theorem witness_PullCommandsSetPull :
    (at_ sPort 40).AtId (sPort.params.writeId .pullUp) ∧ (at_ sPort 41).AtId (sPort.params.writeId .pullNone)
      ∧ (at_ sPort 42).AtId (sPort.params.writeId .pullDown) :=
  ⟨(witness_write_address .pullUp).1, (witness_write_address .pullNone).1, (witness_write_address .pullDown).1⟩
theorem witness_PadPrepareOnlyStores : (at_ sPort 52).AtId (sPort.params.writeId .padPrepare) :=
  (witness_write_address .padPrepare).1
theorem witness_PadApplySendsPreparedByte :
    (at_ sPort 53).AtId (sPort.params.writeId .padApply) ∧ sPort.params.Admissible :=
  ⟨(witness_write_address .padApply).1, test_pRef_admissible⟩
theorem witness_PortSettersUnderPortIdentity :
    (at_ sPort 80).portOk = true ∧ (at_ sPort 80).AtId (sPort.params.writeId .port0Dir)
      ∧ (at_ sPort 81).AtId (sPort.params.writeId .port0Out) ∧ (at_ sPort 82).AtId (sPort.params.writeId .port1Dir)
      ∧ (at_ sPort 83).AtId (sPort.params.writeId .port1Out) :=
  ⟨rfl, (witness_write_address .port0Dir).1, (witness_write_address .port0Out).1, (witness_write_address .port1Dir).1,
    (witness_write_address .port1Out).1⟩
theorem witness_PortSettersRejected :
    (at_ sOther 80).portOk = false ∧ (at_ sOther 80).AtId (sOther.params.writeId .port0Dir)
      ∧ (at_ sOther 81).AtId (sOther.params.writeId .port0Out) ∧ (at_ sOther 82).AtId (sOther.params.writeId .port1Dir)
      ∧ (at_ sOther 83).AtId (sOther.params.writeId .port1Out) :=
  ⟨rfl, (witness_write_address .port0Dir).2, (witness_write_address .port0Out).2, (witness_write_address .port1Dir).2,
    (witness_write_address .port1Out).2⟩
theorem witness_VersionCommandsReturnConstants :
    (holding sPort 1 0x99).AtId (sPort.params.readId .verMajor) ∧ (holding sPort 2 0x99).AtId (sPort.params.readId .verMinor) :=
  ⟨(witness_read_address .verMajor 0x99 (by decide)).1, (witness_read_address .verMinor 0x99 (by decide)).1⟩
theorem witness_BankGetterQueriesSelectedBank :
    ((holding sPort 60 9).AtId (sPort.params.readId .getBank) ∧ ((holding sPort 60 9).cell (sPort.params.readId .getBank)).toNat < 10)
      ∧ ((holding sPort 60 10).AtId (sPort.params.readId .getBank)
          ∧ 10 ≤ ((holding sPort 60 10).cell (sPort.params.readId .getBank)).toNat) :=
  ⟨⟨(witness_read_address .getBank 9 (by decide)).1, by decide⟩, (witness_read_address .getBank 10 (by decide)).1, by decide⟩
theorem witness_PortGettersUnderPortIdentity :
    (holding sPort 61 0x44).portOk = true ∧ (holding sPort 61 0x44).AtId (sPort.params.readId .getPort0)
      ∧ (holding sPort 62 0x44).AtId (sPort.params.readId .getPort1) :=
  ⟨rfl, (witness_read_address .getPort0 0x44 (by decide)).1, (witness_read_address .getPort1 0x44 (by decide)).1⟩
theorem witness_PortGettersRejected :
    (holding sOther 61 0x44).portOk = false ∧ (holding sOther 61 0x44).AtId (sOther.params.readId .getPort0)
      ∧ (holding sOther 62 0x44).AtId (sOther.params.readId .getPort1) :=
  ⟨rfl, (witness_read_address .getPort0 0x44 (by decide)).2.1, (witness_read_address .getPort1 0x44 (by decide)).2.1⟩
theorem witness_PinGettersReturnLiveProperty :
    (holding sPort 63 5).AtId (sPort.params.readId .getTrue) ∧ (holding sPort 64 3).AtId (sPort.params.readId .getDir)
      ∧ (holding sPort 65 4).AtId (sPort.params.readId .getStrength) ∧ (holding sPort 66 6).AtId (sPort.params.readId .getPull)
      ∧ (holding sPort 67 7).AtId (sPort.params.readId .getPad) :=
  ⟨(witness_read_address .getTrue 5 (by decide)).1, (witness_read_address .getDir 3 (by decide)).1,
    (witness_read_address .getStrength 4 (by decide)).1, (witness_read_address .getPull 6 (by decide)).1,
    (witness_read_address .getPad 7 (by decide)).1⟩
theorem witness_StatusReturnsFlagsByte :
    (holding sPort 100 0xAA).AtId (sPort.params.readId .status) ∧ sPort.params.Admissible
      ∧ (7 : Fin 8) ∉ [pRef.flagPos.cfg, pRef.flagPos.cmd, pRef.flagPos.err, pRef.flagPos.wdog] :=
  ⟨(witness_read_address .status 0xAA (by decide)).1, test_pRef_admissible, by decide⟩
theorem witness_WriteTransactionStoresByte : ∃ s : State, s.Ready ∧ s.StorageWf ∧ s.aset = false
    ∧ (127 : Byte).toNat < 128 ∧ s.schedule = [.event (.rx 127), .event (.rx 0xFF), .event .fin] :=
  ⟨{ sPort with schedule := [.event (.rx 127), .event (.rx 0xFF), .event .fin] }, ⟨rfl, rfl⟩,
    ⟨rfl, EventQueue.empty_wf 64⟩, rfl, by decide, rfl⟩
theorem witness_RepeatedGetterUsesPreviousAnswer :
    ((holding sPort 63 5).AtId (sPort.params.readId .getTrue) ∧ getterKind 5 .getTrue = some .trueValue)
      ∧ ((holding sPort 60 10).AtId (sPort.params.readId .getBank) ∧ getterKind 10 .getBank = some (.bank 1)
          ∧ getterKind 9 .getBank = some (.bank 0))
      ∧ ((holding sPort 61 5).AtId (sPort.params.readId .getPort0) ∧ (holding sPort 61 5).portOk = true
          ∧ getterKind 5 .getPort0 = some (.port 0)) :=
  ⟨⟨(witness_read_address .getTrue 5 (by decide)).1, rfl⟩, ⟨(witness_read_address .getBank 10 (by decide)).1, rfl, rfl⟩,
    (witness_read_address .getPort0 5 (by decide)).1, rfl, rfl⟩
/-- A data byte at PORT1_OUT's ID; then a request at GET_PORT1's. -/
theorem witness_RejectionShowsInStatus :
    (∃ s : State, s.Ready ∧ s.StorageWf ∧ s.params.Admissible ∧ s.portOk = false
      ∧ s.schedule = [.event (.rx 0xFF), .event .fin, .event (.rx 100), .event .fin, .event .req]
      ∧ s.sel = RegAddr.toByte (s.params.writeId .port1Out) ∧ s.aset = true
      ∧ RegAddr.toByte (s.params.readId .status) = 100)
    ∧ ∃ s : State, s.Ready ∧ s.StorageWf ∧ s.params.Admissible ∧ s.portOk = false
      ∧ s.schedule = [.event .req, .event .fin, .event (.rx 100), .event .fin, .event .req]
      ∧ s.sel = RegAddr.toByte (s.params.readId .getPort1) ∧ s.cell (s.params.readId .getPort1) = 0x44 :=
  ⟨⟨{ sOther with
        sel := 83, aset := true
        schedule := [.event (.rx 0xFF), .event .fin, .event (.rx 100), .event .fin, .event .req] },
      ⟨rfl, rfl⟩, ⟨rfl, EventQueue.empty_wf 64⟩, test_pRef_admissible, rfl, rfl, rfl, rfl, rfl⟩,
    { holding sOther 62 0x44 with
        schedule := [.event .req, .event .fin, .event (.rx 100), .event .fin, .event .req] },
      ⟨rfl, rfl⟩, ⟨rfl, EventQueue.empty_wf 64⟩, test_pRef_admissible, rfl, rfl, rfl, rfl⟩

end Sys2Proof.Tests
end

namespace Sys2Proof.Machine

/-! ### The flags and the identity: what boot latches and what a step that takes no reset keeps (10_state.md R27, R29) -/

theorem State.boot_cfg (s : State) : s.boot.flags.cfg = true ↔ ¬ Known s.params s.identityIn := by
  have hcfg : s.boot.flags.cfg = !((s.params.knownIdentities.map fun a => a.setWidth 8).contains s.identityIn) := rfl
  rw [hcfg, Bool.not_eq_true', ← Bool.not_eq_true, List.contains_iff_mem, List.mem_map, Known]

theorem State.portOk_eq_true {s : State} : s.portOk = true ↔ s.identity = s.params.portIdentity.setWidth 8 :=
  beq_iff_eq

/-- The port identity is a recognised one (00_scope.md R7). -/
theorem known_portIdentity {p : Params} (h : p.Admissible) : Known p (p.portIdentity.setWidth 8) :=
  ⟨p.portIdentity, h.2.1, rfl⟩

/-- The only flag an instruction can set is `cmd`; none clears a flag, and none writes the identity. -/
theorem exec_flags_identity {i : Instr} {s t : State} (h : exec i s = .next t) :
    (∃ c, t.flags = { s.flags with cmd := s.flags.cmd || c }) ∧ t.identity = s.identity := by
  rcases exec_next h with ⟨-, -, rfl⟩ | ⟨hd, -, rfl⟩
  · exact ⟨⟨false, by simp [State.dequeue]⟩, rfl⟩
  · obtain ⟨hsetup, hflags, -⟩ := handlerEffect_keeps hd s
    exact ⟨hflags, hsetup.identity⟩

/-- Once booted, the same holds of every step that takes no reset. -/
theorem step_flags_identity {s t : State} (hb : s.booted = true) (hr : NoResetNext s) (h : step s = .next t) :
    (∃ c, t.flags = { s.flags with cmd := s.flags.cmd || c }) ∧ t.identity = s.identity := by
  rcases step_next h with ⟨hnb, -⟩ | ⟨-, -, rfl⟩ | ⟨-, _, _, _, hs, -⟩ | ⟨-, _, rest, -, ⟨-, rfl⟩ | hexec⟩
  · simp [hb] at hnb
  · exact ⟨⟨false, by simp⟩, rfl⟩
  · exact absurd hs (hr _ _ _)
  · exact ⟨⟨false, by simp⟩, rfl⟩
  · exact exec_flags_identity (s := { s with schedule := rest }) hexec

/-- A step of a device that has not booted is its boot. -/
theorem step_beforeBoot {s t : State} (hb : s.booted = false) (h : step s = .next t) : t = s.boot := by
  rw [step_boot hb] at h
  exact (Host.Outcome.next.inj h).symm

/-- Settles O15: a step only ever turns `cmd` on, and boot computes `cfg` and `wdog` from its inputs. -/
theorem stickyFlags : Obligations.StickyFlags := by
  unfold Obligations.StickyFlags
  refine ⟨fun s t hb hr h => ?_, rfl, fun s t hb h => ?_⟩
  · obtain ⟨⟨c, hflags⟩, -⟩ := step_flags_identity hb hr h
    simp +contextual [hflags]
  · obtain rfl := step_beforeBoot hb h
    exact ⟨rfl, s.boot_cfg⟩

/-- Settles O16: boot latches the identity input and no instruction writes the identity; the port identity is known, so
an unknown identity is another one. -/
theorem identityLatchedAtBoot : Obligations.IdentityLatchedAtBoot := by
  unfold Obligations.IdentityLatchedAtBoot
  refine ⟨fun s t hb h => ?_, fun s t hb hr h => (step_flags_identity hb hr h).2, fun s => State.portOk_eq_true,
    fun s hp hk => ?_⟩
  · obtain rfl := step_beforeBoot hb h
    rfl
  · refine Bool.eq_false_iff.mpr fun hport => hk ?_
    rw [State.portOk_eq_true.mp hport]
    exact known_portIdentity hp

/-! ### The register cells (10_state.md R20) -/

theorem regAddr_lt_nRegs (a : RegAddr) : a.toNat < Config.nRegs := a.isLt

theorem State.cell_setCell {s : State} (hs : s.reg.wf = true) (a b : RegAddr) (v : Byte) :
    (s.setCell a v).cell b = if b = a then v else s.cell b := by
  simp only [State.cell, State.setCell_reg, Memory.read_write hs, BitVec.toNat_inj]

theorem State.setCell_wf {s : State} (hs : s.reg.wf = true) (a : RegAddr) (v : Byte) : (s.setCell a v).reg.wf = true :=
  Memory.write_wf hs v (regAddr_lt_nRegs a)

/-- Writes to two cells leave the same data in either order: both results are canonical and read alike at every address. -/
theorem Memory.write_comm {m : Memory} (hm : m.wf = true) {a b : Nat} (ha : a < Config.nRegs) (hb : b < Config.nRegs)
    (hne : b ≠ a) (v w : Byte) : Memory.write (Memory.write m a v) b w = Memory.write (Memory.write m b w) a v := by
  have hma := Memory.write_wf hm v ha
  have hmb := Memory.write_wf hm w hb
  refine Memory.eq_of_read (Memory.write_wf hma w hb) (Memory.write_wf hmb v ha) fun c => ?_
  rw [Memory.read_write hma, Memory.read_write hm, Memory.read_write hmb, Memory.read_write hm]
  by_cases hca : c = a
  · rw [if_pos hca, if_neg (by omega), if_pos hca]
  · rw [if_neg hca, if_neg hca]

theorem State.setCell_comm {s : State} (hs : s.reg.wf = true) {a b : RegAddr} (hne : b ≠ a) (v w : Byte) :
    (s.setCell a v).setCell b w = (s.setCell b w).setCell a v := by
  have hne' : b.toNat ≠ a.toNat := fun h => hne (BitVec.eq_of_toNat_eq h)
  exact congrArg (fun reg => { s with reg }) (Memory.write_comm hs (regAddr_lt_nRegs a) (regAddr_lt_nRegs b) hne' v w)

/-- What a stored data byte runs writes no cell. -/
@[simp] theorem runWritePhase_cell (v : Byte) (s : State) (a : RegAddr) : (runWritePhase v s).cell a = s.cell a := by
  obtain ⟨reqs, cmd, recs, hrun, -⟩ := runWritePhase_cases v s
  rw [hrun]
  rfl

/-- A data byte with the address of a cell in force is stored there, and then runs. -/
theorem exec_rxData_at {s : State} {a : RegAddr} (hs : s.Ready) (ha : s.sel = RegAddr.toByte a) (v : Byte) :
    exec (.rxData v) s = .next (runWritePhase v (s.setCell a v)) := by
  have hsel : s.sel.toNat = a.toNat := by rw [ha, RegAddr.toByte_toNat]
  have hstore : s.dataByte v (runWritePhase v) = runWritePhase v (s.setCell a v) := State.atSel_of_addr hsel _
  exact (exec_ready (i := .rxData v) (by simp) hs).trans (congrArg _ hstore)

/-- Settles O25: a write is read back at its own cell only, the canonical form makes writes to two cells commute, and what
a data byte runs after its store leaves the cells alone. -/
theorem registerCellsIndependent : Obligations.RegisterCellsIndependent := by
  unfold Obligations.RegisterCellsIndependent
  intro s a b v w hs
  refine ⟨by simp [State.cell_setCell hs], fun hne => by simp [State.cell_setCell hs, hne],
    fun hne => State.setCell_comm hs hne v w, State.setCell_wf hs a v, fun hready hsel => ?_⟩
  refine ⟨_, exec_rxData_at hready hsel v, ?_, fun c hc => ?_⟩
  · simp [State.cell_setCell hs]
  · simp [State.cell_setCell hs, hc]

end Sys2Proof.Machine

namespace Sys2Proof.Machine

/-! ### The address byte and the end of a transaction (40_transaction_fsm.md R101, R104) -/

theorem exec_rxAddr {s : State} (hs : s.Ready) (b : Byte) : exec (.rxAddr b) s = .next { s with sel := b, aset := true } :=
  exec_ready (i := .rxAddr b) (by simp) hs

theorem exec_fin {s : State} (hs : s.Ready) : exec .fin s = .next { s with aset := false } :=
  exec_ready (i := .fin) (by simp) hs

/-- In IDLE, clearing `aset` leaves the state as it is. -/
theorem State.clearAset_of_idle {s : State} (h : s.aset = false) : { s with aset := false } = s := by
  rw [← h]

/-- Settles O30: what RX_ADDR does to a ready state looks at no bit of the byte, so 128 or more is stored too. -/
theorem addressByteSelects : Obligations.AddressByteSelects := by
  unfold Obligations.AddressByteSelects
  exact fun s b hs => exec_rxAddr hs b

/-- Settles O31: FIN clears `aset` alone, which in IDLE is clear already. -/
theorem finishedTransactionKeepsSel : Obligations.FinishedTransactionKeepsSel := by
  unfold Obligations.FinishedTransactionKeepsSel
  refine fun s hs => ⟨exec_fin hs, fun hidle => ?_⟩
  rw [exec_fin hs, State.clearAset_of_idle hidle]

end Sys2Proof.Machine

namespace Sys2Proof.Machine

/-! ### A write-phase command at its own address (41_write_commands.md R120, R121) -/

/-- At its own address a command's data byte is stored in the command's cell, and then the command has its effect. -/
theorem exec_writeCmd_atId {m : WriteCmd} {s : State} (h : s.AtId (s.params.writeId m)) {v : Byte}
    {reqs : List GpioRequest} {cmd : Bool} {recs : List Record}
    (hran : writeCommand m v (s.setCell (s.params.writeId m) v)
      = (s.setCell (s.params.writeId m) v).afterWrite reqs cmd recs) :
    ∃ t, exec (m.instr v) s = .next t ∧ DataByteRan s t v reqs cmd recs := by
  have hsel : s.sel.toNat = (s.params.writeId m).toNat := by rw [h.sel, RegAddr.toByte_toNat]
  exact ⟨_, (exec_writeCmd m v s).trans (State.handler_ready h.ready _), State.dataByte_ran h.storage hsel hran⟩

/-- A command that its identity check passes completes with the requests of its action, taken after the store. -/
theorem writeCompletes_of_action {m : WriteCmd} {s : State} (h : s.AtId (s.params.writeId m))
    (hport : writeNeedsPort m = false ∨ s.portOk = true) {v : Byte} {reqs : List GpioRequest}
    (hact : writeAction m v (s.setCell (s.params.writeId m) v)
      = { s.setCell (s.params.writeId m) v with gpioLog := s.gpioLog ++ reqs }) :
    WriteCompletes (m.instr v) s (s.params.writeId m) v reqs :=
  exec_writeCmd_atId h (writeCommand_accepted (s := s.setCell (s.params.writeId m) v) hport v hact)

/-- A port-wide command is rejected under every other identity (R121). -/
theorem writeRejected_of_port {m : WriteCmd} {s : State} (hm : writeNeedsPort m = true) (hport : s.portOk = false)
    (v : Byte) (h : s.AtId (s.params.writeId m)) : WriteRejected (m.instr v) s (s.params.writeId m) v :=
  exec_writeCmd_atId h (writeCommand_rejected (s := s.setCell (s.params.writeId m) v) hm hport v)

/-! ### BANK_CLR (41_write_commands.md R124) -/

theorem bankMask_bankOf_low {v : Byte} (h : v.toNat < 10) : bankMask (bankOf v) = 0x000FF := by
  have hbank : bankOf v = 0 := if_pos h
  rw [hbank]
  rfl

theorem bankMask_bankOf_high {v : Byte} (h : 10 ≤ v.toNat) : bankMask (bankOf v) = 0x3FC00 := by
  have hbank : bankOf v = 1 := if_neg (Nat.not_lt.mpr h)
  rw [hbank]
  rfl

/-- BANK_CLR needs no identity and clears the pins of the bank that `v` selects. -/
theorem bankClr_completes {s : State} (v : Byte) (h : s.AtId (s.params.writeId .bankClr)) :
    WriteCompletes (.bankClr v) s (s.params.writeId .bankClr) v [.putMasked (bankMask (bankOf v)) 0] :=
  writeCompletes_of_action (m := .bankClr) h (.inl rfl) rfl

/-- Settles O37: BANK_CLR clears the mask of the selected bank, which is bank 0 below 10 and bank 1 from there on. -/
theorem bankClearDrivesBankLow : Obligations.BankClearDrivesBankLow := by
  unfold Obligations.BankClearDrivesBankLow
  refine fun s v => ⟨fun h hlow => ?_, fun h hhigh => ?_⟩
  · rw [← bankMask_bankOf_low hlow]
    exact bankClr_completes v h
  · rw [← bankMask_bankOf_high hhigh]
    exact bankClr_completes v h

/-- Settles O44: each of the four port setters is a port-wide command, and the identity is another one. -/
theorem portSettersRejected : Obligations.PortSettersRejected := by
  unfold Obligations.PortSettersRejected
  exact fun s v hport =>
    ⟨writeRejected_of_port (m := .port0Dir) rfl hport v, writeRejected_of_port (m := .port0Out) rfl hport v,
      writeRejected_of_port (m := .port1Dir) rfl hport v, writeRejected_of_port (m := .port1Out) rfl hport v⟩

end Sys2Proof.Machine

namespace Sys2Proof.Machine

/-! ### A read-phase command at its own address (42_read_commands.md R150 to R152) -/

/-- At its own address a command's byte request has the command's effect, and then replies with the cell and traces it. -/
theorem exec_readCmd_atId {m : ReadCmd} {s : State} (h : s.AtId (s.params.readId m)) {r : Byte} {reg : Memory}
    {qs : List GpioQuery} {cmd : Bool} {recs : List Record}
    (hran : readCommand m (s.params.readId m) s = s.afterRead reg qs cmd recs)
    (hcell : Memory.read reg (s.params.readId m).toNat = r)
    (hother : ∀ b, b ≠ (s.params.readId m).toNat → Memory.read reg b = Memory.read s.reg b) :
    ∃ t, exec m.instr s = .next t
      ∧ ByteRequestRan s t r qs cmd (recs ++ [{ kind := .rval, id := RegAddr.toByte (s.params.readId m), val := r }]) := by
  have hsel : s.sel.toNat = (s.params.readId m).toNat := by rw [h.sel, RegAddr.toByte_toNat]
  rw [← h.sel]
  exact ⟨_, (exec_readCmd m s).trans (State.handler_ready h.ready _),
    State.byteRequest_ran h.storage hsel hran hcell hother⟩

/-- A command that its identity check passes completes with the result and the queries of its computation. -/
theorem readCompletes_of_compute {m : ReadCmd} {s : State} (h : s.AtId (s.params.readId m))
    (hport : readNeedsPort m = false ∨ s.portOk = true) {r : Byte} {qs : List GpioQuery}
    (hcompute : readCompute m (s.cell (s.params.readId m)) s
      = (r, { s with queryLog := s.queryLog ++ qs, draws := s.draws + qs.length })) :
    ReadCompletes m.instr s (s.params.readId m) r qs := by
  refine exec_readCmd_atId h (readCommand_accepted hport _ hcompute) ?_ fun b hb => ?_
  · rw [Memory.read_write h.storage.1, if_pos rfl]
  · rw [Memory.read_write h.storage.1, if_neg hb]

/-- A command whose computation leaves the state alone makes no query. -/
theorem readCompletes_of_pure {m : ReadCmd} {s : State} (h : s.AtId (s.params.readId m))
    (hport : readNeedsPort m = false ∨ s.portOk = true) {r : Byte}
    (hcompute : readCompute m (s.cell (s.params.readId m)) s = (r, s)) :
    ReadCompletes m.instr s (s.params.readId m) r [] :=
  readCompletes_of_compute h hport (by simp [hcompute])

/-- Settles O45: neither version command needs an identity, and each computes its constant from the parameters alone. -/
theorem versionCommandsReturnConstants : Obligations.VersionCommandsReturnConstants := by
  unfold Obligations.VersionCommandsReturnConstants
  exact fun s =>
    ⟨fun h => readCompletes_of_pure (m := .verMajor) h (.inl rfl) rfl,
      fun h => readCompletes_of_pure (m := .verMinor) h (.inl rfl) rfl, rfl⟩

end Sys2Proof.Machine

namespace Sys2Proof.Machine

/-! ### Dequeue and the full queue (43_event_queue.md R182, R184) -/

/-- The parts of a Dequeue that need no invariant: the head slot is delivered and emptied, and the indices advance. -/
theorem EventQueue.dequeue_head {q : EventQueue} (hc : q.count ≠ 0) :
    q.dequeue.1 = q.slot q.head.val ∧ q.dequeue.2.slot q.head.val = none
      ∧ q.dequeue.2.head = q.head + 1 ∧ q.dequeue.2.count + 1 = q.count := by
  simp only [EventQueue.dequeue, if_neg hc, true_and]
  refine ⟨?_, Nat.sub_add_cancel (Nat.pos_of_ne_zero hc)⟩
  rw [EventQueue.slot_set, if_pos (Nat.mod_eq_of_lt q.head.isLt)]

/-- With nothing queued, nothing reaches the sink. -/
theorem State.dequeue_of_empty {s : State} (h : s.queue.count = 0) : s.dequeue = s := by
  simp [State.dequeue, EventQueue.dequeue_empty h]

theorem State.dequeue_of_some {s : State} {r : Record} (h : s.queue.dequeue.1 = some r) :
    s.dequeue = { s with queue := s.queue.dequeue.2, sink := s.sink ++ [r] } := by
  simp [State.dequeue, h]

/-- Tracing into a full queue loses the record: the queue is the only field a trace writes. -/
theorem State.trace_full {s : State} (r : Record) (h : ¬ s.queue.count < s.params.qLive.toNat) : s.trace r = s := by
  simp only [State.trace, EventQueue.enqueue_full r h]

/-- Settles O28: DEQ completes in every booted state; the queue's form puts a record in the head slot, and that record
is the first of the contents. -/
theorem dequeueTakesOldest : Obligations.DequeueTakesOldest := by
  unfold Obligations.DequeueTakesOldest
  intro s hb
  rw [exec_deq hb]
  refine ⟨fun hempty => by rw [State.dequeue_of_empty hempty], fun hwf hc => ?_⟩
  obtain ⟨r, hr, hcontents, hwf'⟩ := EventQueue.dequeue_oldest (QLive.toNat_le _) hwf hc
  obtain ⟨hslot, hemptied, hhead, hcount⟩ := EventQueue.dequeue_head hc
  exact ⟨r, s.queue.dequeue.2, congrArg _ (State.dequeue_of_some hr), hslot.symm.trans hr, hcontents, hemptied, hhead,
    hcount, hwf'⟩

/-- Settles O27: a count that has reached the limit is not below it, so Enqueue refuses. -/
theorem fullQueueDropsNewRecord : Obligations.FullQueueDropsNewRecord := by
  unfold Obligations.FullQueueDropsNewRecord
  exact ⟨fun q r h => EventQueue.enqueue_full r h.not_lt, fun l q r h => EventQueue.enqueue_full r h.not_lt,
    fun s r h => State.trace_full r h.not_lt⟩

end Sys2Proof.Machine

namespace Sys2Proof.Machine

/-! ### Boot (70_reset_and_hazards.md R231) -/

/-- Settles O9: the step is the boot, which sets every field outright; only `cfg` is computed, from the known identities. -/
theorem bootClearsFlagsAndSetsWatchdog : Obligations.BootClearsFlagsAndSetsWatchdog := by
  unfold Obligations.BootClearsFlagsAndSetsWatchdog
  intro s hb
  exact ⟨s.boot, step_boot hb, rfl, rfl, rfl, rfl, s.boot_cfg, rfl⟩

end Sys2Proof.Machine

namespace Sys2Proof.Machine

/-! ### The encoding of events and of command words (30_encoding.md R70 to R80) -/

/-- An instruction is one of the five events' own, or a command of one of the two phases. -/
theorem Instr.byCommand {P : Instr → Prop} (rxAddr : ∀ b, P (.rxAddr b)) (rxData : ∀ v, P (.rxData v)) (req : P .req)
    (fin : P .fin) (deq : P .deq) (write : ∀ (m : WriteCmd) v, P (m.instr v)) (read : ∀ m : ReadCmd, P m.instr)
    (i : Instr) : P i := by
  cases i
  case rxAddr b => exact rxAddr b
  case rxData v => exact rxData v
  case req => exact req
  case fin => exact fin
  case deq => exact deq
  case verMajor => exact read .verMajor
  case verMinor => exact read .verMinor
  case getBank => exact read .getBank
  case getPort0 => exact read .getPort0
  case getPort1 => exact read .getPort1
  case getTrue => exact read .getTrue
  case getDir => exact read .getDir
  case getStrength => exact read .getStrength
  case getPull => exact read .getPull
  case getPad => exact read .getPad
  case status => exact read .status
  case gpioClr v => exact write .gpioClr v
  case gpioSet v => exact write .gpioSet v
  case bankClr v => exact write .bankClr v
  case dirOut v => exact write .dirOut v
  case dirIn v => exact write .dirIn v
  case drive0 v => exact write .drive0 v
  case drive1 v => exact write .drive1 v
  case drive2 v => exact write .drive2 v
  case drive3 v => exact write .drive3 v
  case pullUp v => exact write .pullUp v
  case pullNone v => exact write .pullNone v
  case pullDown v => exact write .pullDown v
  case padPrepare v => exact write .padPrepare v
  case padApply v => exact write .padApply v
  case port0Dir v => exact write .port0Dir v
  case port0Out v => exact write .port0Out v
  case port1Dir v => exact write .port1Dir v
  case port1Out v => exact write .port1Out v

theorem encode_writeCmd (p : Params) (sel : Byte) (m : WriteCmd) (v : Byte) :
    encode p sel (m.instr v) = ⟨true, RegAddr.toByte (p.writeId m), .rx v⟩ := by
  cases m <;> rfl

theorem encode_readCmd (p : Params) (sel : Byte) (m : ReadCmd) :
    encode p sel m.instr = ⟨false, RegAddr.toByte (p.readId m), .req⟩ := by
  cases m <;> rfl

theorem wellFormed_writeCmd (p : Params) (sel : Byte) (m : WriteCmd) (v : Byte) :
    (m.instr v).WellFormed p sel = (sel == RegAddr.toByte (p.writeId m)) := by
  cases m <;> rfl

theorem wellFormed_readCmd (p : Params) (sel : Byte) (m : ReadCmd) :
    m.instr.WellFormed p sel = (sel == RegAddr.toByte (p.readId m)) := by
  cases m <;> rfl

theorem decode_address (p : Params) (sel b : Byte) : decode p ⟨false, sel, .rx b⟩ = .rxAddr b := rfl

theorem decode_data_command {p : Params} {sel : Byte} {m : WriteCmd} (h : p.wcmd sel = some m) (v : Byte) :
    decode p ⟨true, sel, .rx v⟩ = m.instr v := by
  simp [decode, h]

theorem decode_data_plain {p : Params} {sel : Byte} (h : p.wcmd sel = none) (v : Byte) :
    decode p ⟨true, sel, .rx v⟩ = .rxData v := by
  simp [decode, h]

theorem decode_request_command {p : Params} {sel : Byte} {m : ReadCmd} (h : p.rcmd sel = some m) (aset : Bool) :
    decode p ⟨aset, sel, .req⟩ = m.instr := by
  simp [decode, h]

theorem decode_request_plain {p : Params} {sel : Byte} (h : p.rcmd sel = none) (aset : Bool) :
    decode p ⟨aset, sel, .req⟩ = .req := by
  simp [decode, h]

theorem wcmd_writeId {p : Params} (hp : p.Admissible) (m : WriteCmd) : p.wcmd (RegAddr.toByte (p.writeId m)) = some m :=
  find?_of_inj (WriteCmd.mem_all m) fun _ => writeId_inj hp

theorem rcmd_readId {p : Params} (hp : p.Admissible) (m : ReadCmd) : p.rcmd (RegAddr.toByte (p.readId m)) = some m :=
  find?_of_inj (ReadCmd.mem_all m) fun _ => readId_inj hp

theorem command_commandId {p : Params} (hp : p.Admissible) (c : Command) :
    p.command (RegAddr.toByte (p.commandId c)) = some c :=
  find?_of_inj (Command.mem_all c) fun _ => commandId_inj hp

/-- What `command` finds has the ID asked for. -/
theorem command_some {p : Params} {id : Byte} {c : Command} (h : p.command id = some c) :
    RegAddr.toByte (p.commandId c) = id := by
  simpa using List.find?_some h

/-- Settles O1: a command is encoded with its own ID in force, where the lookup finds it again; a plain RX_DATA or REQ
stands where the lookup finds nothing. -/
theorem decodeEncodeRoundTrip : Obligations.DecodeEncodeRoundTrip := by
  unfold Obligations.DecodeEncodeRoundTrip
  intro p sel i hp hwf
  cases i using Instr.byCommand with
  | rxAddr b => rfl
  | rxData v => exact decode_data_plain (beq_iff_eq.mp hwf) v
  | req => exact decode_request_plain (beq_iff_eq.mp hwf) false
  | fin => rfl
  | deq => rfl
  | write m v => rw [encode_writeCmd, decode_data_command (wcmd_writeId hp m)]
  | read m => rw [encode_readCmd, decode_request_command (rcmd_readId hp m)]

/-- Settles O2: along the decoder's branches, a lookup that finds a command says that the address in force is its ID. -/
theorem encodeDecodeRoundTrip : Obligations.EncodeDecodeRoundTrip := by
  unfold Obligations.EncodeDecodeRoundTrip
  rintro p ⟨aset, sel, e⟩
  cases e with
  | fin => exact ⟨rfl, rfl, rfl, nofun⟩
  | deq => exact ⟨rfl, rfl, rfl, nofun⟩
  | req =>
    cases hm : p.rcmd sel with
    | none =>
      rw [decode_request_plain hm]
      exact ⟨beq_iff_eq.mpr hm, rfl, rfl, nofun⟩
    | some m =>
      rw [decode_request_command hm, wellFormed_readCmd, encode_readCmd, rcmd_some hm]
      exact ⟨beq_self_eq_true sel, rfl, rfl, nofun⟩
  | rx b =>
    cases aset with
    | false => exact ⟨rfl, rfl, rfl, fun _ _ => rfl⟩
    | true =>
      cases hm : p.wcmd sel with
      | none =>
        rw [decode_data_plain hm]
        exact ⟨beq_iff_eq.mpr hm, rfl, rfl, fun _ _ => rfl⟩
      | some m =>
        rw [decode_data_command hm, wellFormed_writeCmd, encode_writeCmd, wcmd_some hm]
        exact ⟨beq_self_eq_true sel, rfl, rfl, fun _ _ => rfl⟩

theorem decodeCommand_write {p : Params} {id : Byte} {m : WriteCmd} (h : p.command id = some (.write m)) (v : Byte)
    (rest : List Byte) : decodeCommand p (id :: v :: rest) = .ok (m.instr v, rest) := by
  simp [decodeCommand, h]

theorem decodeCommand_read {p : Params} {id : Byte} {m : ReadCmd} (h : p.command id = some (.read m))
    (rest : List Byte) : decodeCommand p (id :: rest) = .ok (m.instr, rest) := by
  simp [decodeCommand, h]

theorem decodeCommand_none {p : Params} {id : Byte} (h : p.command id = none) (rest : List Byte) :
    decodeCommand p (id :: rest) = .error (if id.toNat < Config.nRegs then .plainCell id else .noRegister id) := by
  simp [decodeCommand, h]

/-- Settles O3: the word's first byte is the command's ID, under which the command is found. -/
theorem commandWordRoundTrip : Obligations.CommandWordRoundTrip := by
  unfold Obligations.CommandWordRoundTrip
  intro p c v rest hp
  have hc := command_commandId hp c
  cases c with
  | write m => exact decodeCommand_write hc v rest
  | read m => exact decodeCommand_read hc rest

/-- Settles O4: the admissible IDs are distinct register addresses, and a register address has seven bits. -/
theorem commandIdsDistinctAndFixed : Obligations.CommandIdsDistinctAndFixed := by
  unfold Obligations.CommandIdsDistinctAndFixed
  refine ⟨fun p c d hp h => commandId_inj hp (RegAddr.toByte_inj h), fun p c => ?_, fun p => ⟨rfl, rfl, rfl, rfl⟩,
    Config.choice.admissible⟩
  rw [RegAddr.toByte_toNat]
  exact regAddr_lt_nRegs _

/-! The fixed IDs stand first in the tables, so they are found whatever the open ones are. -/

theorem wcmd_gpioSet (p : Params) : p.wcmd 11 = some .gpioSet := rfl
theorem wcmd_port0Dir (p : Params) : p.wcmd 80 = some .port0Dir := rfl
theorem rcmd_verMajor (p : Params) : p.rcmd 1 = some .verMajor := rfl
theorem rcmd_status (p : Params) : p.rcmd 100 = some .status := rfl
theorem command_gpioSet (p : Params) : p.command 11 = some (.write .gpioSet) := rfl
theorem command_port0Dir (p : Params) : p.command 80 = some (.write .port0Dir) := rfl
theorem command_verMajor (p : Params) : p.command 1 = some (.read .verMajor) := rfl
theorem command_status (p : Params) : p.command 100 = some (.read .status) := rfl

/-- Settles O5: each fixed ID is found in its table, whatever the parameters. -/
theorem eventWordsDecode : Obligations.EventWordsDecode := by
  unfold Obligations.EventWordsDecode
  exact fun p sel b aset =>
    ⟨decode_address p sel b, decode_data_command (wcmd_gpioSet p) b, decode_data_command (wcmd_port0Dir p) b,
      decode_request_command (rcmd_verMajor p) aset, decode_request_command (rcmd_status p) aset, rfl, rfl,
      decodeCommand_write (command_gpioSet p) 5 [], decodeCommand_write (command_port0Dir p) 255 [],
      decodeCommand_read (command_verMajor p) [], decodeCommand_read (command_status p) []⟩

/-- What the handler does in a state is up to the effect on that state alone. -/
theorem State.handler_congr {s : State} {k k' : State → State} (h : k s = k' s) : s.handler k = s.handler k' := by
  unfold State.handler
  split
  · rfl
  · rfl
  · rw [h]

theorem exec_rxData_command {s : State} {m : WriteCmd} (h : s.params.wcmd s.sel = some m) (v : Byte) :
    exec (.rxData v) s = exec (m.instr v) s :=
  calc exec (.rxData v) s
    _ = s.handler (fun s => s.dataByte v (runWritePhase v)) := rfl
    _ = s.handler (fun s => s.dataByte v (writeCommand m v)) := State.handler_congr (State.dataByte_command h v)
    _ = exec (m.instr v) s := (exec_writeCmd m v s).symm

theorem exec_req_command {s : State} {m : ReadCmd} (h : s.params.rcmd s.sel = some m) : exec .req s = exec m.instr s :=
  calc exec .req s
    _ = s.handler (fun s => s.byteRequest runReadPhase) := rfl
    _ = s.handler (fun s => s.byteRequest (readCommand m)) := State.handler_congr (State.byteRequest_command h)
    _ = exec m.instr s := (exec_readCmd m s).symm

/-- Settles O34: at a command's ID the event runs that command, and admissible IDs are found in their tables. -/
theorem eventAtCommandAddressRunsCommand : Obligations.EventAtCommandAddressRunsCommand := by
  unfold Obligations.EventAtCommandAddressRunsCommand
  exact ⟨fun s m v hm => exec_rxData_command hm v, fun s m hm => exec_req_command hm, fun p m hp => wcmd_writeId hp m,
    fun p m hp => rcmd_readId hp m⟩

/-! ### A step's instruction, and a word placed for the next step (logs 2 to 4, log 24) -/

/-- Settles O6: the only event not for the handler is the Dequeue. -/
theorem stepRunsDecodedInstruction : Obligations.StepRunsDecodedInstruction := by
  unfold Obligations.StepRunsDecodedInstruction
  intro s e rest hb hs he
  refine step_event hb hs (he.imp_left fun hdeq => ?_)
  rw [hdeq]
  rfl

theorem forHandler_of_ne_deq {e : Event} (h : e ≠ .deq) : forHandler e = true := by
  cases e with
  | deq => exact absurd rfl h
  | rx b => rfl
  | req => rfl
  | fin => rfl

/-- Settles O8: every event but the Dequeue is the handler's, and passes by while a fault is set. -/
theorem stepWithoutEventForHandler : Obligations.StepWithoutEventForHandler := by
  unfold Obligations.StepWithoutEventForHandler
  exact fun s hb => ⟨step_idle hb, fun e rest hs he hf => step_passed hb hs (forHandler_of_ne_deq he) hf⟩

theorem placeCommand_write {s : State} {id : Byte} {m : WriteCmd} (h : s.params.command id = some (.write m)) (v : Byte) :
    s.placeCommand id v
      = { s with booted := true, fault := none, sel := id, aset := true, schedule := .event (.rx v) :: s.schedule } := by
  simp only [State.placeCommand, decodeCommand_write h, encode_writeCmd]

theorem placeCommand_read {s : State} {id : Byte} {m : ReadCmd} (h : s.params.command id = some (.read m)) (v : Byte) :
    s.placeCommand id v = { s with booted := true, fault := none, sel := id, schedule := .event .req :: s.schedule } := by
  simp only [State.placeCommand, decodeCommand_read h, encode_readCmd]

/-- A word that names a command, placed for the next step, is what that step runs. -/
theorem step_placeCommand {s : State} (hp : s.params.Admissible) {id v : Byte} {i : Instr} {rest : List Byte}
    (h : decodeCommand s.params [id, v] = .ok (i, rest)) :
    ∃ t : State, t.Ready ∧ t.sel = id ∧ step (s.placeCommand id v) = exec i t := by
  cases hc : s.params.command id with
  | none => simp [decodeCommand_none hc] at h
  | some c =>
    have hid := command_some hc
    cases c with
    | write m =>
      have hi : m.instr v = i := by
        rw [decodeCommand_write hc] at h
        exact (Prod.ext_iff.mp (Except.ok.inj h)).1
      rw [placeCommand_write hc, step_event rfl rfl (.inr rfl), ← hi]
      refine ⟨{ s with booted := true, fault := none, sel := id, aset := true }, ⟨rfl, rfl⟩, rfl, ?_⟩
      exact congrArg (exec · _) (decode_data_command (hid ▸ wcmd_writeId hp m) v)
    | read m =>
      have hi : m.instr = i := by
        rw [decodeCommand_read hc] at h
        exact (Prod.ext_iff.mp (Except.ok.inj h)).1
      rw [placeCommand_read hc, step_event rfl rfl (.inr rfl), ← hi]
      refine ⟨{ s with booted := true, fault := none, sel := id }, ⟨rfl, rfl⟩, rfl, ?_⟩
      exact congrArg (exec · _) (decode_request_command (hid ▸ rcmd_readId hp m) s.aset)

theorem decodeTableWord_some {nbits w : Nat} {i : Instr} (h : decodeTableWord nbits w = some i) :
    ∃ rest, decodeCommand Config.params (tableBytes nbits w) = .ok (i, rest) := by
  unfold decodeTableWord at h
  split at h
  · cases h
    exact ⟨_, ‹_›⟩
  · cases h

/-- Settles O7: the reset state's parameters are admissible, so the step runs the command that the word's ID names. -/
theorem tableWordRunsNext : Obligations.TableWordRunsNext := by
  unfold Obligations.TableWordRunsNext
  intro nbits w i h
  obtain ⟨rest, hdecode⟩ := decodeTableWord_some h
  exact step_placeCommand (s := State.reset) Config.choice.admissible hdecode

end Sys2Proof.Machine

namespace Sys2Proof.Machine

/-! ### What an instruction can do to the state -/

/-- The instruction goes through the address in force: all do but the address byte, FIN and the Dequeue. -/
def UsesAddress (i : Instr) : Prop := (∀ b, i ≠ .rxAddr b) ∧ i ≠ .fin ∧ i ≠ .deq

theorem UsesAddress.not_event {i : Instr} (h : UsesAddress i) : ¬ ((∃ b, i = .rxAddr b) ∨ i = .fin ∨ i = .deq) := by
  rintro (⟨b, hb⟩ | hf | hd)
  · exact h.1 b hb
  · exact h.2.1 hf
  · exact h.2.2 hd

/-- The instruction is a byte request: REQ or a read-phase command. -/
def IsRequest (i : Instr) : Prop := i = .req ∨ ∃ m : ReadCmd, i = m.instr

/-- Some ID makes the device raise `flags.cmd`: a port-wide command's, or one with no action in the phase. -/
def MayRaiseCmd (s : State) : Prop := s.portOk = false ∨ s.params.unmatchedRaisesCmd = true

/-- The requests a data byte can send: at most one, and no direction mask but under the port identity. -/
structure SendableRequests (s : State) (reqs : List GpioRequest) : Prop where
  atMostOne : reqs.length ≤ 1
  noDirMask : s.portOk = false → ∀ mask value, GpioRequest.dirMasked mask value ∉ reqs

/-- Everything a handler instruction can make of a state: an address byte, the end of a transaction, an address out of
range, a stored data byte with what it ran, or an answered request with what it ran. -/
inductive HandlerRan (i : Instr) (s : State) : State → Prop
  | address (b : Byte) (hi : i = .rxAddr b) : HandlerRan i s { s with sel := b, aset := true }
  | finished (hi : i = .fin) : HandlerRan i s { s with aset := false }
  | outOfRange (hi : UsesAddress i) (hsel : 128 ≤ s.sel.toNat) : HandlerRan i s (s.raiseFault .addrRange)
  | stored (a : RegAddr) (v : Byte) (reqs : List GpioRequest) (cmd : Bool) (recs : List Record) (hi : UsesAddress i)
      (hreq : ¬ IsRequest i) (hsel : s.sel.toNat = a.toNat) (hsent : SendableRequests s reqs)
      (hcmd : cmd = true → MayRaiseCmd s) : HandlerRan i s ((s.setCell a v).afterWrite reqs cmd recs)
  | answered (a : RegAddr) (reg : Memory) (qs : List GpioQuery) (cmd : Bool) (recs : List Record) (r : Byte)
      (hi : UsesAddress i) (hsel : s.sel.toNat = a.toNat) (hreg : reg = s.reg ∨ ∃ w, reg = Memory.write s.reg a.toNat w)
      (hcmd : cmd = true → MayRaiseCmd s) :
      HandlerRan i s { s.afterRead reg qs cmd recs with replies := s.replies ++ [r] }

/-- A byte request in range: what it runs, then the reply with the cell and the trace of it. -/
theorem State.byteRequest_eq {s : State} {k : RegAddr → State → State} {a : RegAddr} {reg : Memory} {qs : List GpioQuery}
    {cmd : Bool} {recs : List Record} (hsel : s.sel.toNat = a.toNat) (hk : k a s = s.afterRead reg qs cmd recs) :
    s.byteRequest k
      = { s.afterRead reg qs cmd (recs ++ [{ kind := .rval, id := s.sel, val := Memory.read reg a.toNat }]) with
          replies := s.replies ++ [Memory.read reg a.toNat] } := by
  unfold State.byteRequest
  rw [State.atSel_of_addr hsel, hk]
  simp [State.afterRead, State.reply, State.trace, State.cell]

theorem handlerEffect_ran {i : Instr} (hd : i ≠ .deq) (s : State) : HandlerRan i s (handlerEffect i s) := by
  rcases handlerEffect_cases hd s with ⟨b, hi, e⟩ | ⟨hi, e⟩ | ⟨hb, hf, hq, hm, v, k, e, hk⟩ | ⟨hb, hf, k, e, hk⟩
  · rw [e]
    exact .address b hi
  · rw [e]
    exact .finished hi
  · rw [e]
    unfold State.dataByte
    rcases State.atSel_cases s (fun a s => k (s.setCell a v)) with ⟨hout, e2⟩ | ⟨a, hsel, e2⟩
    · rw [e2]
      exact .outOfRange ⟨hb, hf, hd⟩ hout
    · obtain ⟨reqs, cmd, recs, e3, hl, hcmd, hdir⟩ := hk (s.setCell a v)
      rw [e2, e3]
      exact .stored a v reqs cmd recs ⟨hb, hf, hd⟩ (by simp [IsRequest, hq, hm]) hsel ⟨hl, hdir⟩ hcmd
  · rw [e]
    rcases Nat.lt_or_ge s.sel.toNat 128 with hin | hout
    · have hsel := (setWidth_toNat_of_lt hin).symm
      obtain ⟨reg, qs, cmd, recs, e3, hreg, hcmd⟩ := hk (s.sel.setWidth 7) s
      rw [State.byteRequest_eq hsel e3]
      exact .answered _ reg qs cmd _ _ ⟨hb, hf, hd⟩ hsel hreg hcmd
    · rw [State.byteRequest, State.atSel_out hout]
      exact .outOfRange ⟨hb, hf, hd⟩ hout

/-- If an instruction answers a next state, it is a Dequeue of a booted machine, or a ready handler ran it. -/
theorem exec_ran {i : Instr} {s t : State} (h : exec i s = .next t) :
    (i = .deq ∧ s.booted = true ∧ t = s.dequeue) ∨ (s.Ready ∧ HandlerRan i s t) := by
  rcases exec_next h with hdeq | ⟨hd, hready, rfl⟩
  · exact .inl hdeq
  · exact .inr ⟨hready, handlerEffect_ran hd s⟩

/-! ### Who writes what (10_state.md sections 1 to 6) -/

/-- Settles O18: of all effects only those of the address byte and of FIN name `sel` or `aset`. -/
theorem transactionStateWriters : Obligations.TransactionStateWriters := by
  unfold Obligations.TransactionStateWriters
  intro i s t h
  rcases exec_ran h with ⟨rfl, -, rfl⟩ | ⟨-, hran⟩
  · exact ⟨nofun, nofun, fun _ _ => ⟨rfl, rfl⟩⟩
  · cases hran with
    | address b hi =>
      subst hi
      exact ⟨fun c hc => ⟨Instr.rxAddr.inj hc, rfl⟩, nofun, fun hb => absurd rfl (hb b)⟩
    | finished hi =>
      subst hi
      exact ⟨nofun, fun _ => ⟨rfl, rfl⟩, fun _ hf => absurd rfl hf⟩
    | outOfRange hi => exact ⟨fun b hb => absurd hb (hi.1 b), fun hf => absurd hf hi.2.1, fun _ _ => ⟨rfl, rfl⟩⟩
    | stored _ _ _ _ _ hi => exact ⟨fun b hb => absurd hb (hi.1 b), fun hf => absurd hf hi.2.1, fun _ _ => ⟨rfl, rfl⟩⟩
    | answered _ _ _ _ _ _ hi =>
      exact ⟨fun b hb => absurd hb (hi.1 b), fun hf => absurd hf hi.2.1, fun _ _ => ⟨rfl, rfl⟩⟩

/-- A write to the cell of an address leaves every other cell as it was. -/
theorem Memory.read_write_other {m : Memory} (hm : m.wf = true) {a b : Nat} (h : b ≠ a) (v : Byte) :
    Memory.read (Memory.write m a v) b = Memory.read m b := by
  rw [Memory.read_write hm, if_neg h]

/-- Settles O19: a data byte writes the cell at `sel`, a request at most that cell, and nothing else writes any. -/
theorem registerFileWriters : Obligations.RegisterFileWriters := by
  unfold Obligations.RegisterFileWriters
  intro i s t hs h
  rcases exec_ran h with ⟨rfl, -, rfl⟩ | ⟨-, hran⟩
  · exact ⟨fun _ _ => rfl, fun _ _ => rfl⟩
  · cases hran with
    | address | finished => exact ⟨fun _ _ => rfl, fun _ _ => rfl⟩
    | outOfRange => exact ⟨fun _ _ => rfl, fun _ _ => rfl⟩
    | stored a v reqs cmd recs hi _ hsel =>
      exact ⟨fun b hb => Memory.read_write_other hs (hsel ▸ hb) v, fun hev => absurd hev hi.not_event⟩
    | answered a reg qs cmd recs r hi hsel hreg =>
      refine ⟨fun b hb => ?_, fun hev => absurd hev hi.not_event⟩
      rcases hreg with rfl | ⟨w, rfl⟩
      · rfl
      · exact Memory.read_write_other hs (hsel ▸ hb) w

/-- The requests of one instruction: those a data byte can send, and none for any other event. -/
theorem exec_requests {i : Instr} {s t : State} (h : exec i s = .next t) :
    ∃ reqs, t.gpioLog = s.gpioLog ++ reqs ∧ SendableRequests s reqs
      ∧ ((∃ b, i = .rxAddr b) ∨ i = .fin ∨ i = .deq ∨ IsRequest i → reqs = []) := by
  have hnone : SendableRequests s [] := ⟨Nat.zero_le 1, fun _ _ _ => List.not_mem_nil⟩
  have hsilent : s.gpioLog = s.gpioLog ++ [] := (List.append_nil _).symm
  rcases exec_ran h with ⟨-, -, rfl⟩ | ⟨-, hran⟩
  · exact ⟨[], hsilent, hnone, fun _ => rfl⟩
  · cases hran with
    | address | finished | outOfRange | answered => exact ⟨[], hsilent, hnone, fun _ => rfl⟩
    | stored a v reqs cmd recs hi hreq _ hsent =>
      refine ⟨reqs, rfl, hsent, fun hev => ?_⟩
      rcases hev with hb | hf | hd | hr
      · exact absurd (.inl hb) hi.not_event
      · exact absurd (.inr (.inl hf)) hi.not_event
      · exact absurd (.inr (.inr hd)) hi.not_event
      · exact absurd hr hreq

theorem needsPort_of_mem_setters :
    ∀ m ∈ [WriteCmd.port0Dir, .port0Out, .port1Dir, .port1Out], writeNeedsPort m = true := by decide

/-- A port-wide write command under another identity sends nothing, in range or not. -/
theorem exec_rejected_gpioLog {m : WriteCmd} {v : Byte} {s t : State} (hm : writeNeedsPort m = true)
    (hport : s.portOk = false) (h : exec (m.instr v) s = .next t) : t.gpioLog = s.gpioLog := by
  rw [exec_writeCmd] at h
  obtain ⟨-, rfl⟩ := State.handler_next h
  unfold State.dataByte
  rcases State.atSel_cases s (fun a s => writeCommand m v (s.setCell a v)) with ⟨-, e⟩ | ⟨a, -, e⟩
  · rw [e]
    rfl
  · rw [e, writeCommand_rejected (s := s.setCell a v) hm hport]
    exact List.append_nil _

/-- Settles O20: only a stored data byte sends a request, and a rejected one runs no action. -/
theorem requestsOnlyAppended : Obligations.RequestsOnlyAppended := by
  unfold Obligations.RequestsOnlyAppended
  intro i s t h
  obtain ⟨reqs, hlog, hsent, hsilent⟩ := exec_requests h
  refine ⟨reqs, hlog, hsent.atMostOne, hsent.noDirMask, fun hport m hm v hi => ?_, hsilent⟩
  have hexec : exec (m.instr v) s = .next t := by
    rcases hi with rfl | ⟨rfl, hat⟩
    · exact h
    · rw [← exec_rxData_command hat, h]
  rw [exec_rejected_gpioLog (needsPort_of_mem_setters m hm) hport hexec] at hlog
  exact List.self_eq_append_right.mp hlog

/-- Settles O21: the only effect that names the fault mark is that of an address out of range, and the handler runs only
while no mark is set. -/
theorem onlyOutOfRangeFaults : Obligations.OnlyOutOfRangeFaults := by
  unfold Obligations.OnlyOutOfRangeFaults
  intro i s t h
  rcases exec_ran h with ⟨rfl, -, rfl⟩ | ⟨hready, hran⟩
  · exact ⟨fun hs ht => absurd hs ht, fun _ => rfl⟩
  · refine ⟨fun hs ht => ?_, fun hs => absurd hready.2 hs⟩
    cases hran with
    | outOfRange hi hsel => exact ⟨rfl, hsel, hi⟩
    | address | finished | stored | answered => exact absurd hs ht

/-! ### When an instruction runs at all (40_transaction_fsm.md R100, 70_reset_and_hazards.md R236) -/

/-- Settles O22: a ready handler completes every instruction of its own, and a Dequeue needs only the boot. -/
theorem readyInstructionsComplete : Obligations.ReadyInstructionsComplete := by
  unfold Obligations.ReadyInstructionsComplete
  refine ⟨fun i s hs => ?_, fun s hb => ⟨_, exec_deq hb⟩⟩
  by_cases hd : i = .deq
  · rw [hd]
    exact ⟨_, exec_deq hs.1⟩
  · exact ⟨_, exec_ready hd hs⟩

theorem exec_deq_beforeBoot {s : State} (h : s.booted = false) : exec .deq s = .refused .beforeBoot := by
  show execDeq s = _
  unfold execDeq
  rw [h]

/-- Settles O23: the handler's step looks at the boot mark first and then at the fault mark, whatever the instruction. -/
theorem handlerHasNoStepUnlessReady : Obligations.HandlerHasNoStepUnlessReady := by
  unfold Obligations.HandlerHasNoStepUnlessReady
  refine ⟨fun i s hb => ?_, fun i s r hb hf hd => (exec_handler hd s).trans (State.handler_stuck hb hf _)⟩
  by_cases hd : i = .deq
  · rw [hd, exec_deq_beforeBoot hb]
  · exact (exec_handler hd s).trans (State.handler_beforeBoot hb _)

end Sys2Proof.Machine

namespace Sys2Proof.Machine

/-! ### What the queue holds changes nothing else (70_reset_and_hazards.md R245) -/

/-- The state with another queue. -/
def State.withQueue (s : State) (q : EventQueue) : State := { s with queue := q }

/-- Run on a state that differs only in its queue, `f` leaves a state that differs only in its queue. -/
def QueueBlind (f : State → State) : Prop := ∀ (s : State) (q : EventQueue), ∃ q', f (s.withQueue q) = (f s).withQueue q'

theorem QueueBlind.comp {f g : State → State} (hg : QueueBlind g) (hf : QueueBlind f) : QueueBlind fun s => g (f s) := by
  intro s q
  obtain ⟨q₁, h₁⟩ := hf s q
  obtain ⟨q₂, h₂⟩ := hg (f s) q₁
  exact ⟨q₂, (congrArg g h₁).trans h₂⟩

theorem queueBlind_trace (r : Record) : QueueBlind (·.trace r) := fun _ _ => ⟨_, rfl⟩
theorem queueBlind_reject (r : Record) : QueueBlind (·.reject r) := fun _ _ => ⟨_, rfl⟩
theorem queueBlind_setCell (a : RegAddr) (v : Byte) : QueueBlind (·.setCell a v) := fun _ q => ⟨q, rfl⟩

theorem queueBlind_unmatched : QueueBlind State.unmatched := by
  intro s q
  show ∃ q', (if s.params.unmatchedRaisesCmd then (s.withQueue q).raiseCmd else s.withQueue q) = s.unmatched.withQueue q'
  unfold State.unmatched
  split <;> exact ⟨q, rfl⟩

theorem queueBlind_writeAction (m : WriteCmd) (v : Byte) : QueueBlind (writeAction m v) := by
  intro s q
  cases m <;> exact ⟨q, rfl⟩

/-- The identity check does not look at the queue, nor does the rejection or the action. -/
theorem queueBlind_writeCommand (m : WriteCmd) (v : Byte) : QueueBlind (writeCommand m v) := by
  intro s q
  rcases Bool.eq_false_or_eq_true (writeNeedsPort m && !s.portOk) with hc | hc
  · have hc' : (writeNeedsPort m && !(s.withQueue q).portOk) = true := hc
    simp only [writeCommand, hc, hc', if_true]
    exact queueBlind_reject _ s q
  · have hc' : (writeNeedsPort m && !(s.withQueue q).portOk) = false := hc
    simp only [writeCommand, hc, hc', Bool.false_eq_true, if_false]
    exact (queueBlind_trace _).comp (queueBlind_writeAction m v) s q

theorem queueBlind_runWritePhase (v : Byte) : QueueBlind (runWritePhase v) := by
  intro s q
  have hparams : (s.withQueue q).params.wcmd (s.withQueue q).sel = s.params.wcmd s.sel := rfl
  unfold runWritePhase
  rw [hparams]
  cases s.params.wcmd s.sel with
  | none => exact queueBlind_unmatched s q
  | some m => exact queueBlind_writeCommand m v s q

/-- A computation's result, and the state after it, up to the queue. -/
theorem readCompute_withQueue (m : ReadCmd) (v : Byte) (s : State) (q : EventQueue) :
    readCompute m v (s.withQueue q) = ((readCompute m v s).1, (readCompute m v s).2.withQueue q) := by
  cases m <;> rfl

theorem queueBlind_readCommand (m : ReadCmd) (a : RegAddr) : QueueBlind (readCommand m a) := by
  intro s q
  have hcell : (s.withQueue q).cell a = s.cell a := rfl
  rcases Bool.eq_false_or_eq_true (readNeedsPort m && !s.portOk) with hc | hc
  · have hc' : (readNeedsPort m && !(s.withQueue q).portOk) = true := hc
    simp only [readCommand, hc, hc', if_true]
    exact queueBlind_reject _ s q
  · have hc' : (readNeedsPort m && !(s.withQueue q).portOk) = false := hc
    simp only [readCommand, hc, hc', Bool.false_eq_true, if_false, hcell, readCompute_withQueue]
    exact (queueBlind_trace _).comp (queueBlind_setCell a _) (readCompute m (s.cell a) s).2 q

theorem queueBlind_runReadPhase (a : RegAddr) : QueueBlind (runReadPhase a) := by
  intro s q
  have hparams : (s.withQueue q).params.rcmd (s.withQueue q).sel = s.params.rcmd s.sel := rfl
  unfold runReadPhase
  rw [hparams]
  cases s.params.rcmd s.sel with
  | none => exact queueBlind_unmatched s q
  | some m => exact queueBlind_readCommand m a s q

theorem queueBlind_atSel {k : RegAddr → State → State} (hk : ∀ a, QueueBlind (k a)) : QueueBlind (·.atSel k) := by
  intro s q
  have hsel : (s.withQueue q).sel = s.sel := rfl
  unfold State.atSel
  simp only [hsel]
  cases regAddr? s.sel with
  | none => exact ⟨q, rfl⟩
  | some a => exact hk a s q

theorem queueBlind_dataByte {k : State → State} (hk : QueueBlind k) (v : Byte) : QueueBlind (·.dataByte v k) :=
  queueBlind_atSel fun a => hk.comp (queueBlind_setCell a v)

theorem queueBlind_byteRequest {k : RegAddr → State → State} (hk : ∀ a, QueueBlind (k a)) :
    QueueBlind (·.byteRequest k) := by
  refine queueBlind_atSel fun a s q => ?_
  obtain ⟨q', hq'⟩ := hk a s q
  rw [hq']
  exact ⟨_, rfl⟩

theorem handlerEffect_writeCmd (m : WriteCmd) (v : Byte) :
    handlerEffect (m.instr v) = fun s => s.dataByte v (writeCommand m v) := by
  cases m <;> rfl

theorem handlerEffect_readCmd (m : ReadCmd) : handlerEffect m.instr = fun s => s.byteRequest (readCommand m) := by
  cases m <;> rfl

theorem queueBlind_handlerEffect (i : Instr) : QueueBlind (handlerEffect i) := by
  cases i using Instr.byCommand with
  | rxAddr b => exact fun _ q => ⟨q, rfl⟩
  | rxData v => exact queueBlind_dataByte (queueBlind_runWritePhase v) v
  | req => exact queueBlind_byteRequest queueBlind_runReadPhase
  | fin => exact fun _ q => ⟨q, rfl⟩
  | deq => exact fun _ q => ⟨q, rfl⟩
  | write m v =>
    rw [handlerEffect_writeCmd]
    exact queueBlind_dataByte (queueBlind_writeCommand m v) v
  | read m =>
    rw [handlerEffect_readCmd]
    exact queueBlind_byteRequest (queueBlind_readCommand m)

/-- The handler steps, or stops for the same reason, whatever the queue holds. -/
theorem State.handler_withQueue {k : State → State} (hk : QueueBlind k) (s : State) (q : EventQueue) :
    (∃ t q', s.handler k = .next t ∧ (s.withQueue q).handler k = .next (t.withQueue q'))
      ∨ (∃ r, s.handler k = .fault r ∧ (s.withQueue q).handler k = .fault r)
      ∨ (s.handler k = .refused .beforeBoot ∧ (s.withQueue q).handler k = .refused .beforeBoot) := by
  cases hb : s.booted with
  | false => exact .inr (.inr ⟨State.handler_beforeBoot hb k, State.handler_beforeBoot (s := s.withQueue q) hb k⟩)
  | true =>
    cases hf : s.fault with
    | some r => exact .inr (.inl ⟨r, State.handler_stuck hb hf k, State.handler_stuck (s := s.withQueue q) hb hf k⟩)
    | none =>
      obtain ⟨q', hq'⟩ := hk s q
      refine .inl ⟨k s, q', State.handler_ready ⟨hb, hf⟩ k, ?_⟩
      rw [← hq']
      exact State.handler_ready (s := s.withQueue q) ⟨hb, hf⟩ k

/-- Settles O24: no effect looks at the queue but to put records into it, and whether the handler has a step is up to the
boot mark and the fault mark. -/
theorem lostTraceChangesNothingElse : Obligations.LostTraceChangesNothingElse := by
  unfold Obligations.LostTraceChangesNothingElse
  intro i s q hd
  have hother : exec i { s with queue := q } = (s.withQueue q).handler (handlerEffect i) := exec_handler hd _
  rw [exec_handler hd s, hother]
  rcases State.handler_withQueue (queueBlind_handlerEffect i) s q with ⟨t, q', hs, hq⟩ | ⟨r, hs, hq⟩ | ⟨hs, hq⟩
  · rw [hs, hq]
    refine ⟨fun u hu => ?_, fun r hr => ?_, fun r hr => ?_⟩
    · obtain rfl := Host.Outcome.next.inj hu
      exact ⟨q', rfl⟩
    · cases hr
    · cases hr
  · rw [hs, hq]
    refine ⟨fun u hu => ?_, fun _ hr => hr, fun r hr => ?_⟩
    · cases hu
    · cases hr
  · rw [hs, hq]
    refine ⟨fun u hu => ?_, fun r hr => ?_, fun _ hr => hr⟩
    · cases hu
    · cases hr

end Sys2Proof.Machine

namespace Sys2Proof.Machine

/-! ### Boot and reset (10_state.md R36, 70_reset_and_hazards.md R230 to R236, 60_exceptions.md R214) -/

theorem State.boot_queue (s : State) :
    s.boot.queue.contents = s.params.bootRecords.take s.params.qLive.toNat
      ∧ s.boot.queue.Wf s.params.qLive.toNat :=
  EventQueue.foldl_enqueue (QLive.toNat_le _) s.params.bootRecords .empty (EventQueue.empty_wf _)

theorem State.boot_storage (s : State) : s.boot.StorageWf := ⟨Memory.load_wf s.params.resetRegs, s.boot_queue.2⟩

theorem State.boot_justBooted (s : State) : JustBooted s.params s.identityIn s.wdogReason s.boot where
  params := rfl
  cells a := Memory.read_load s.params.resetRegs (regAddr_lt_nRegs a)
  sel := rfl
  aset := rfl
  cfg := s.boot_cfg
  cmd := rfl
  err := rfl
  wdog := rfl
  identity := rfl
  records := s.boot_queue.1
  noRecords h := by simp [State.boot, h]
  storage := s.boot_storage
  fault := rfl
  gpioLog := rfl
  booted := rfl
  identityKept := rfl
  wdogKept := rfl
  replies := rfl
  sink := rfl
  queryLog := rfl

/-- Settles O10: the step is the boot, which sets every field, the cells and the queue by what their lists load. -/
theorem bootRebuildsState : Obligations.BootRebuildsState := by
  unfold Obligations.BootRebuildsState
  intro s hb
  refine ⟨s.boot, step_boot hb, s.boot_justBooted, rfl, rfl, fun hcells a => ?_⟩
  have hreg : s.boot.reg = Memory.load s.params.resetRegs := rfl
  rw [hreg, hcells]
  rfl

/-- Settles O11: the first step takes the reset, whatever the fault mark, and leaves a device that has not booted; the
second is its boot, under the same parameters and with the reset's inputs. -/
theorem resetRestartsDevice : Obligations.ResetRestartsDevice := by
  unfold Obligations.ResetRestartsDevice
  exact fun s identityIn wdogReason rest hb hs =>
    ⟨_, _, step_reset hb hs, rfl, step_boot rfl,
      State.boot_justBooted ({ s with schedule := rest }.restart identityIn wdogReason), rfl, rfl⟩

/-- Settles O12: the reset state is written out as a literal. -/
theorem resetStateValues : Obligations.ResetStateValues := by
  unfold Obligations.ResetStateValues
  exact ⟨fun _ => rfl, rfl, rfl, rfl, rfl, EventQueue.empty_contents, rfl, rfl, rfl, rfl⟩

/-- Settles O54: the text is cut to RECORD_LEN, which is a successor. -/
theorem recordTextFits : Obligations.RecordTextFits := by
  unfold Obligations.RecordTextFits
  exact ⟨Nat.le_add_left 1 _, fun r => List.length_take_le _ _⟩

/-! ### The block's invariant -/

/-- No instruction writes the parameters, the identity, the boot inputs, the boot mark or the schedule. -/
theorem exec_setup {i : Instr} {s t : State} (h : exec i s = .next t) : SameSetup s t := by
  rcases exec_next h with ⟨-, -, rfl⟩ | ⟨hd, -, rfl⟩
  · exact ⟨rfl, rfl, rfl, rfl, rfl, rfl⟩
  · exact (handlerEffect_keeps hd s).1

/-- Settles O17: boot and reset keep the parameters by name, and no instruction writes them. -/
theorem parametersNeverChange : Obligations.ParametersNeverChange := by
  unfold Obligations.ParametersNeverChange
  intro s t h
  rcases step_next h with ⟨-, rfl⟩ | ⟨-, -, rfl⟩ | ⟨-, _, _, _, -, rfl⟩ | ⟨-, _, _, -, ⟨-, rfl⟩ | hexec⟩
  · rfl
  · rfl
  · rfl
  · rfl
  · exact (exec_setup hexec).params

theorem State.dequeue_storage {s : State} (h : s.StorageWf) : s.dequeue.StorageWf := by
  by_cases hc : s.queue.count = 0
  · rwa [State.dequeue_of_empty hc]
  · obtain ⟨r, -, -, hwf⟩ := EventQueue.dequeue_oldest (QLive.toNat_le _) h.2 hc
    exact ⟨h.1, hwf⟩

/-- Every instruction keeps the storage in form. -/
theorem exec_storage {i : Instr} {s t : State} (hs : s.StorageWf) (h : exec i s = .next t) : t.StorageWf := by
  rcases exec_next h with ⟨-, -, rfl⟩ | ⟨hd, -, rfl⟩
  · exact State.dequeue_storage hs
  · exact handlerEffect_storage hd hs

/-- Where no ID makes the device raise `cmd`, no instruction does. -/
theorem exec_cmd {i : Instr} {s t : State} (h : exec i s = .next t) (hcmd : t.flags.cmd = true) :
    s.flags.cmd = true ∨ MayRaiseCmd s := by
  rcases exec_ran h with ⟨-, -, rfl⟩ | ⟨-, hran⟩
  · exact .inl hcmd
  · cases hran with
    | address | finished | outOfRange => exact .inl hcmd
    | stored _ _ _ _ _ _ _ _ _ hraise => exact ((Bool.or_eq_true _ _).mp hcmd).imp_right hraise
    | answered _ _ _ _ _ _ _ _ _ hraise => exact ((Bool.or_eq_true _ _).mp hcmd).imp_right hraise

/-- The fault mark is set only with the address in force out of range, and while it is set no instruction moves that. -/
theorem exec_faultAddress {i : Instr} {s t : State} (hs : s.fault ≠ none → 128 ≤ s.sel.toNat)
    (h : exec i s = .next t) (ht : t.fault ≠ none) : 128 ≤ t.sel.toNat := by
  rcases exec_ran h with ⟨-, -, rfl⟩ | ⟨hready, hran⟩
  · exact hs ht
  · cases hran with
    | outOfRange _ hsel => exact hsel
    | address | finished | stored | answered => exact absurd hready.2 ht

theorem SameSetup.portOk {s t : State} (h : SameSetup s t) : t.portOk = s.portOk := by
  unfold State.portOk
  rw [h.params, h.identity]

theorem exec_inv {i : Instr} {s t : State} (hs : s.Inv) (h : exec i s = .next t) : t.Inv := by
  have hsetup := exec_setup h
  obtain ⟨⟨c, hflags⟩, -⟩ := exec_flags_identity h
  exact
    { storage := exec_storage hs.storage h
      admissible := by
        rw [hsetup.params]
        exact hs.admissible
      noErr := by
        rw [hflags]
        exact hs.noErr
      identityLatched := by
        rw [hsetup.booted, hsetup.identity, hsetup.identityIn]
        exact hs.identityLatched
      cfgFlag := by
        rw [hsetup.booted, hsetup.params, hsetup.identity, hflags]
        exact hs.cfgFlag
      wdogFlag := by
        rw [hsetup.booted, hsetup.wdogReason, hflags]
        exact hs.wdogFlag
      cmdFlag := fun hcmd => by
        rw [hsetup.portOk, hsetup.params]
        exact (exec_cmd h hcmd).elim hs.cmdFlag id
      faultAddress := exec_faultAddress hs.faultAddress h }

theorem State.boot_inv {s : State} (hp : s.params.Admissible) : s.boot.Inv where
  storage := s.boot_storage
  admissible := hp
  noErr := rfl
  identityLatched _ := rfl
  cfgFlag _ := s.boot_cfg
  wdogFlag _ := rfl
  cmdFlag := nofun
  faultAddress hf := absurd rfl hf

/-- What a reset leaves before the boot: nothing stored, no flag, no fault. -/
theorem State.Inv.of_restarted {s : State} (hp : s.params.Admissible) (hreg : s.reg = []) (hq : s.queue = .empty)
    (hflags : s.flags = {}) (hb : s.booted = false) (hf : s.fault = none) : s.Inv where
  storage := by
    rw [State.StorageWf, hreg, hq]
    exact ⟨rfl, EventQueue.empty_wf _⟩
  admissible := hp
  noErr := by rw [hflags]
  identityLatched h := by simp [hb] at h
  cfgFlag h := by simp [hb] at h
  wdogFlag h := by simp [hb] at h
  cmdFlag h := by simp [hflags] at h
  faultAddress h := absurd hf h

theorem State.Inv.withSchedule {s : State} (h : s.Inv) (rest : List Input) : { s with schedule := rest }.Inv :=
  ⟨h.storage, h.admissible, h.noErr, h.identityLatched, h.cfgFlag, h.wdogFlag, h.cmdFlag, h.faultAddress⟩

/-- Settles O14: the reset state's parameters are admissible, and nothing is stored, set or booted. -/
theorem resetMeetsInvariant : Obligations.ResetMeetsInvariant := by
  unfold Obligations.ResetMeetsInvariant
  exact State.Inv.of_restarted Config.choice.admissible rfl rfl rfl rfl rfl

/-- Settles O13: boot and reset establish the invariant anew, and every instruction keeps each of its clauses. -/
theorem stepKeepsInvariant : Obligations.StepKeepsInvariant := by
  unfold Obligations.StepKeepsInvariant
  intro s t hs h
  rcases step_next h with ⟨-, rfl⟩ | ⟨-, -, rfl⟩ | ⟨-, _, _, _, -, rfl⟩ | ⟨-, _, rest, -, ⟨-, rfl⟩ | hexec⟩
  · exact State.boot_inv hs.admissible
  · exact hs
  · exact State.Inv.of_restarted hs.admissible rfl rfl rfl rfl rfl
  · exact hs.withSchedule rest
  · exact exec_inv (hs.withSchedule rest) hexec

/-! ### The event queue along runs (43_event_queue.md R181 to R186) -/

/-- Settles O26: below the limit, Enqueue takes the branch that accepts. -/
theorem enqueueKeepsArrivalOrder : Obligations.EnqueueKeepsArrivalOrder := by
  unfold Obligations.EnqueueKeepsArrivalOrder
  intro l q r hwf hc
  obtain ⟨htrue, hcontents, hwf'⟩ := EventQueue.enqueue_accepts r (QLive.toNat_le l) hwf hc
  exact ⟨htrue, hcontents, by simp [EventQueue.enqueue, hc], by simp [EventQueue.enqueue, hc], hwf'⟩

/-- The records accepted so far, in order: those delivered and then those still queued. -/
def State.acceptedRecords (s : State) : List Record := s.sink ++ s.queue.contents

/-- From `s` to `t`, records were only accepted at the end and delivered from the front. -/
def FifoGrows (s t : State) : Prop := s.acceptedRecords <+: t.acceptedRecords ∧ s.sink <+: t.sink

theorem FifoGrows.refl (s : State) : FifoGrows s s := ⟨List.prefix_rfl, List.prefix_rfl⟩

theorem FifoGrows.trans {s t u : State} (h : FifoGrows s t) (h' : FifoGrows t u) : FifoGrows s u :=
  ⟨h.1.trans h'.1, h.2.trans h'.2⟩

/-- Records enqueued behind others that fit leave those in front. -/
theorem EventQueue.contents_foldl_enqueue {live : Nat} {q : EventQueue} (hl : live ≤ 64) (h : q.Wf live)
    (recs : List Record) : q.contents <+: (recs.foldl (fun q r => (q.enqueue live r).2) q).contents := by
  have hfits : q.contents.length ≤ live := (EventQueue.length_contents hl h).trans_le h.1
  rw [(EventQueue.foldl_enqueue hl recs q h).1, List.take_append, List.take_of_length_le hfits]
  exact List.prefix_append _ _

/-- A Dequeue moves the oldest record from the queue to the end of the sink. -/
theorem State.dequeue_fifoGrows {s : State} (h : s.StorageWf) : FifoGrows s s.dequeue := by
  by_cases hc : s.queue.count = 0
  · rw [State.dequeue_of_empty hc]
    exact .refl s
  · obtain ⟨r, hr, hcontents, -⟩ := EventQueue.dequeue_oldest (QLive.toNat_le _) h.2 hc
    rw [State.dequeue_of_some hr]
    simp [FifoGrows, State.acceptedRecords, hcontents]

theorem exec_fifoGrows {i : Instr} {s t : State} (hs : s.StorageWf) (h : exec i s = .next t) : FifoGrows s t := by
  rcases exec_next h with ⟨-, -, rfl⟩ | ⟨hd, -, rfl⟩
  · exact State.dequeue_fifoGrows hs
  · obtain ⟨-, -, hsink⟩ := handlerEffect_keeps hd s
    obtain ⟨recs, hqueue⟩ := handlerEffect_records hd s
    rw [FifoGrows, State.acceptedRecords, State.acceptedRecords, hsink, hqueue]
    exact ⟨(List.prefix_append_right_inj _).mpr (EventQueue.contents_foldl_enqueue (QLive.toNat_le _) hs.2 recs),
      List.prefix_rfl⟩

/-- A booted device with its storage in form and no reset to come. -/
structure RunsOn (s : State) : Prop where
  booted : s.booted = true
  storage : s.StorageWf
  noReset : NoReset s

/-- A step of such a device leaves such a device, and its records only grow at the end. -/
theorem step_fifoGrows {s t : State} (hs : RunsOn s) (h : step s = .next t) : RunsOn t ∧ FifoGrows s t := by
  have hrest : ∀ {i rest}, s.schedule = i :: rest → NoReset { s with schedule := rest } := fun hs' a w hmem =>
    hs.noReset a w (hs' ▸ List.mem_cons_of_mem _ hmem)
  rcases step_next h with ⟨hb, -⟩ | ⟨-, -, rfl⟩ | ⟨-, a, w, rest, hsched, -⟩ | ⟨-, e, rest, hsched, ⟨-, rfl⟩ | hexec⟩
  · simp [hs.booted] at hb
  · exact ⟨hs, .refl _⟩
  · exact absurd (hsched ▸ List.mem_cons_self) (hs.noReset a w)
  · exact ⟨⟨hs.booted, hs.storage, hrest hsched⟩, .refl s⟩
  · have hsetup := exec_setup hexec
    refine ⟨⟨hsetup.booted.trans hs.booted, exec_storage (s := { s with schedule := rest }) hs.storage hexec, ?_⟩,
      exec_fifoGrows (s := { s with schedule := rest }) hs.storage hexec⟩
    rw [NoReset, hsetup.schedule]
    exact hrest hsched

/-- If a run of some steps and one more answers a next state, so does its first step. -/
theorem run_succ_next {M : Host.Core} {n : Nat} {s u : M.State} (h : M.run (n + 1) s = .next u) :
    ∃ t, M.step s = .next t ∧ M.run n t = .next u := by
  rw [Host.Core.run] at h
  split at h
  · exact ⟨_, ‹_›, h⟩
  · cases h
  · cases h

theorem run_fifoGrows {n : Nat} {s u : State} (hs : RunsOn s) (h : Host.Core.run core n s = .next u) : FifoGrows s u := by
  induction n generalizing s with
  | zero =>
    obtain rfl := Host.Outcome.next.inj h
    exact .refl s
  | succ n ih =>
    obtain ⟨t, hstep, hrun⟩ := run_succ_next h
    obtain ⟨ht, hgrows⟩ := step_fifoGrows hs hstep
    exact hgrows.trans (ih ht hrun)

/-- Settles O29, by induction on the number of steps: each step keeps the device running and only adds to the records. -/
theorem fifoOrderAlongRuns : Obligations.FifoOrderAlongRuns := by
  unfold Obligations.FifoOrderAlongRuns
  intro n s t hb hs hr h
  obtain ⟨⟨accepted, haccepted⟩, hsink⟩ := run_fifoGrows ⟨hb, hs, hr⟩ h
  exact ⟨accepted, haccepted.symm, hsink⟩

end Sys2Proof.Machine

namespace Sys2Proof.Machine

/-! ### Data bytes and requests at an address that is no command's, or out of range (40_transaction_fsm.md R102 to R106) -/

theorem runWritePhase_plain {s : State} (h : s.params.wcmd s.sel = none) (v : Byte) :
    runWritePhase v s = s.afterWrite [] s.params.unmatchedRaisesCmd [] := by
  simp only [runWritePhase, h, State.unmatched_eq]

theorem runReadPhase_plain {s : State} (h : s.params.rcmd s.sel = none) (a : RegAddr) :
    runReadPhase a s = s.afterRead s.reg [] s.params.unmatchedRaisesCmd [] := by
  simp only [runReadPhase, h, State.unmatched_eq']

/-- Settles O32: at such an address the stored byte runs nothing but the reaction to an ID with no action. -/
theorem dataByteAtPlainAddressOnlyStores : Obligations.DataByteAtPlainAddressOnlyStores := by
  unfold Obligations.DataByteAtPlainAddressOnlyStores
  intro s v hs hstorage hsel hplain
  have ha := (setWidth_toNat_of_lt hsel).symm
  exact ⟨_, exec_ready (i := .rxData v) nofun hs,
    State.dataByte_ran hstorage ha (runWritePhase_plain (s := s.setCell (s.sel.setWidth 7) v) hplain v)⟩

/-- Settles O33: at such an address the request runs nothing but the reaction to an ID with no action, and the cell it
replies with is as it was. -/
theorem requestAtPlainAddressReturnsCell : Obligations.RequestAtPlainAddressReturnsCell := by
  unfold Obligations.RequestAtPlainAddressReturnsCell
  intro s hs hstorage hsel hplain
  have ha := (setWidth_toNat_of_lt hsel).symm
  exact ⟨_, exec_ready (i := .req) nofun hs,
    State.byteRequest_ran hstorage ha (runReadPhase_plain hplain _) (by rw [ha]) fun _ _ => rfl⟩

/-- Out of range, a data byte and a byte request only set the fault mark, whatever they would run. -/
theorem handler_dataByte_outOfRange {s : State} (hs : s.Ready) (hsel : 128 ≤ s.sel.toNat) (v : Byte) (k : State → State) :
    s.handler (fun s => s.dataByte v k) = .next { s with fault := some .addrRange } :=
  (State.handler_ready hs _).trans (congrArg _ (State.atSel_out hsel _))

theorem handler_byteRequest_outOfRange {s : State} (hs : s.Ready) (hsel : 128 ≤ s.sel.toNat)
    (k : RegAddr → State → State) : s.handler (fun s => s.byteRequest k) = .next { s with fault := some .addrRange } :=
  (State.handler_ready hs _).trans (congrArg _ (State.atSel_out hsel _))

/-- Settles O35: RX_DATA and every write command are data bytes, REQ and every read command byte requests. -/
theorem outOfRangeAccessOnlySetsFault : Obligations.OutOfRangeAccessOnlySetsFault := by
  unfold Obligations.OutOfRangeAccessOnlySetsFault
  exact fun s hs hsel =>
    ⟨fun v => handler_dataByte_outOfRange hs hsel v (runWritePhase v), handler_byteRequest_outOfRange hs hsel runReadPhase,
      fun m v => (exec_writeCmd m v s).trans (handler_dataByte_outOfRange hs hsel v _),
      fun m => (exec_readCmd m s).trans (handler_byteRequest_outOfRange hs hsel _)⟩

/-! ### The write-phase commands (41_write_commands.md R122 to R139) -/

/-- Settles O36: neither command needs an identity, and each action is one request. -/
theorem gpioLevelCommandsDrivePin : Obligations.GpioLevelCommandsDrivePin := by
  unfold Obligations.GpioLevelCommandsDrivePin
  exact fun s v =>
    ⟨fun h => writeCompletes_of_action (m := .gpioClr) h (.inl rfl) rfl,
      fun h => writeCompletes_of_action (m := .gpioSet) h (.inl rfl) rfl, rfl⟩

/-- Settles O38: neither command needs an identity, and each action is one request. -/
theorem directionCommandsSetDirection : Obligations.DirectionCommandsSetDirection := by
  unfold Obligations.DirectionCommandsSetDirection
  exact fun s v =>
    ⟨fun h => writeCompletes_of_action (m := .dirOut) h (.inl rfl) rfl,
      fun h => writeCompletes_of_action (m := .dirIn) h (.inl rfl) rfl⟩

/-- Settles O39: none of the four commands needs an identity, and each action is one request, for its own level. -/
theorem driveCommandsSetStrength : Obligations.DriveCommandsSetStrength := by
  unfold Obligations.DriveCommandsSetStrength
  exact fun s v =>
    ⟨fun h => writeCompletes_of_action (m := .drive0) h (.inl rfl) rfl,
      fun h => writeCompletes_of_action (m := .drive1) h (.inl rfl) rfl,
      fun h => writeCompletes_of_action (m := .drive2) h (.inl rfl) rfl,
      fun h => writeCompletes_of_action (m := .drive3) h (.inl rfl) rfl⟩

/-- Settles O40: none of the three commands needs an identity, and each action is one request, for its own mode. -/
theorem pullCommandsSetPull : Obligations.PullCommandsSetPull := by
  unfold Obligations.PullCommandsSetPull
  exact fun s v =>
    ⟨fun h => writeCompletes_of_action (m := .pullUp) h (.inl rfl) rfl,
      fun h => writeCompletes_of_action (m := .pullNone) h (.inl rfl) rfl,
      fun h => writeCompletes_of_action (m := .pullDown) h (.inl rfl) rfl⟩

/-- A state that sends no request is as it was. -/
theorem State.gpioLog_append_nil (s : State) : { s with gpioLog := s.gpioLog ++ [] } = s := by
  rw [List.append_nil]

/-- Settles O41: the action leaves the state as the store left it. -/
theorem padPrepareOnlyStores : Obligations.PadPrepareOnlyStores := by
  unfold Obligations.PadPrepareOnlyStores
  exact fun s v h => writeCompletes_of_action (m := .padPrepare) h (.inl rfl) (State.gpioLog_append_nil _).symm

/-- Settles O42: PAD_APPLY's own store does not touch PAD_PREPARE's cell, because their IDs differ. -/
theorem padApplySendsPreparedByte : Obligations.PadApplySendsPreparedByte := by
  unfold Obligations.PadApplySendsPreparedByte
  intro s v h hp
  have hids : s.params.writeId .padPrepare ≠ s.params.writeId .padApply := fun hid => by
    simpa using writeId_inj hp hid
  have hcell : (s.setCell (s.params.writeId .padApply) v).cell (s.params.writeId .padPrepare)
      = s.cell (s.params.writeId .padPrepare) := by
    rw [State.cell_setCell h.storage.1, if_neg hids]
  rw [← hcell]
  exact writeCompletes_of_action (m := .padApply) h (.inl rfl) rfl

/-- Settles O43: under the port identity each setter's action is one request, whose mask and value are the byte 0xFF and the
data byte, or the direction bits, shifted to the port's pins. -/
theorem portSettersUnderPortIdentity : Obligations.PortSettersUnderPortIdentity := by
  unfold Obligations.PortSettersUnderPortIdentity
  exact fun s v =>
    ⟨fun h hport => writeCompletes_of_action (m := .port0Dir) h (.inr hport) rfl,
      fun h hport => writeCompletes_of_action (m := .port0Out) h (.inr hport) rfl,
      fun h hport => writeCompletes_of_action (m := .port1Dir) h (.inr hport) rfl,
      fun h hport => writeCompletes_of_action (m := .port1Out) h (.inr hport) rfl⟩

/-! ### The read-phase commands (42_read_commands.md R153 to R162) -/

/-- A getter's computation is its one query: the answer, and the state after it. -/
theorem readCompute_getter {m : ReadCmd} {v : Byte} {k : QueryKind} (h : getterKind v m = some k) (s : State) :
    readCompute m v s = s.gpioQuery k v := by
  cases m
  case verMajor | verMinor | status => cases h
  case getBank =>
    have hk : k = .bank (bankOf v) := by
      rw [bankOf, apply_ite QueryKind.bank]
      exact (Option.some.inj h).symm
    rw [hk]
    rfl
  all_goals
    cases h
    rfl

theorem readNeedsPort_eq_true {m : ReadCmd} : readNeedsPort m = true ↔ m = .getPort0 ∨ m = .getPort1 := by
  cases m <;> decide

/-- A getter at its own address, under the port identity if it needs that, completes with its query's answer. -/
theorem readCompletes_of_getter {m : ReadCmd} {s : State} {k : QueryKind} (h : s.AtId (s.params.readId m))
    (hport : m = .getPort0 ∨ m = .getPort1 → s.portOk = true)
    (hk : getterKind (s.cell (s.params.readId m)) m = some k) :
    ReadCompletes m.instr s (s.params.readId m) (Config.gpioAnswer s.draws k (s.cell (s.params.readId m)))
      [{ kind := k, arg := s.cell (s.params.readId m) }] := by
  refine readCompletes_of_compute h ?_ (readCompute_getter hk s)
  rcases Bool.eq_false_or_eq_true (readNeedsPort m) with hm | hm
  · exact .inr (hport (readNeedsPort_eq_true.mp hm))
  · exact .inl hm

/-- Settles O46: which bank the getter queries is up to the cell's byte alone. -/
theorem bankGetterQueriesSelectedBank : Obligations.BankGetterQueriesSelectedBank := by
  unfold Obligations.BankGetterQueriesSelectedBank
  exact fun s =>
    ⟨fun h hlow => readCompletes_of_getter (m := .getBank) h (by simp) (congrArg some (if_pos hlow)),
      fun h hhigh => readCompletes_of_getter (m := .getBank) h (by simp) (congrArg some (if_neg (Nat.not_lt.mpr hhigh)))⟩

/-- Settles O47: under the port identity both are getters, each of its own port. -/
theorem portGettersUnderPortIdentity : Obligations.PortGettersUnderPortIdentity := by
  unfold Obligations.PortGettersUnderPortIdentity
  exact fun s hport =>
    ⟨fun h => readCompletes_of_getter (m := .getPort0) h (fun _ => hport) rfl,
      fun h => readCompletes_of_getter (m := .getPort1) h (fun _ => hport) rfl⟩

/-- A port-wide request is rejected under every other identity, and replies with the cell as it is (R162). -/
theorem readRejected_of_port {m : ReadCmd} {s : State} (hm : readNeedsPort m = true) (hport : s.portOk = false)
    (h : s.AtId (s.params.readId m)) : ReadRejected m.instr s (s.params.readId m) :=
  exec_readCmd_atId h (readCommand_rejected hm hport _) rfl fun _ _ => rfl

/-- Settles O48: both port getters are port-wide commands, and the identity is another one. -/
theorem portGettersRejected : Obligations.PortGettersRejected := by
  unfold Obligations.PortGettersRejected
  exact fun s hport =>
    ⟨readRejected_of_port (m := .getPort0) rfl hport, readRejected_of_port (m := .getPort1) rfl hport⟩

/-- Settles O49: none of the five getters needs an identity, and each has its own kind of query. -/
theorem pinGettersReturnLiveProperty : Obligations.PinGettersReturnLiveProperty := by
  unfold Obligations.PinGettersReturnLiveProperty
  exact fun s =>
    ⟨fun h => readCompletes_of_getter (m := .getTrue) h (by simp) rfl,
      fun h => readCompletes_of_getter (m := .getDir) h (by simp) rfl,
      fun h => readCompletes_of_getter (m := .getStrength) h (by simp) rfl,
      fun h => readCompletes_of_getter (m := .getPull) h (by simp) rfl,
      fun h => readCompletes_of_getter (m := .getPad) h (by simp) rfl⟩

/-! ### STATUS (42_read_commands.md R161, 10_state.md R28) -/

theorem flagBit_getLsbD : ∀ (b : Bool) (pos i : Fin 8), (flagBit b pos).getLsbD i.val = (b && decide (i = pos)) := by
  decide

/-- A bit of the flags byte is set by a flag that is set and has its position. -/
theorem flagsByte_getLsbD (pos : FlagPos) (f : Flags) (i : Fin 8) :
    (flagsByte pos f).getLsbD i.val
      = (f.cfg && decide (i = pos.cfg) || f.cmd && decide (i = pos.cmd) || f.err && decide (i = pos.err)
        || f.wdog && decide (i = pos.wdog)) := by
  simp only [flagsByte, BitVec.getLsbD_or, flagBit_getLsbD]

theorem status_completes {s : State} (h : s.AtId (s.params.readId .status)) :
    ReadCompletes .status s 100 (flagsByte s.params.flagPos s.flags) [] :=
  readCompletes_of_pure (m := .status) h (.inl rfl) rfl

/-- Settles O50: the flags' positions are distinct, so at each position the byte has that flag alone, and elsewhere none. -/
theorem statusReturnsFlagsByte : Obligations.StatusReturnsFlagsByte := by
  unfold Obligations.StatusReturnsFlagsByte
  intro s h hp
  obtain ⟨-, -, -, hdistinct, -⟩ := hp
  simp only [List.nodup_cons, List.mem_cons, List.not_mem_nil, or_false, not_or] at hdistinct
  obtain ⟨⟨hcfgCmd, hcfgErr, hcfgWdog⟩, ⟨hcmdErr, hcmdWdog⟩, herrWdog, -⟩ := hdistinct
  refine ⟨_, status_completes h, ?_, ?_, ?_, ?_, fun i hi => ?_⟩ <;> rw [flagsByte_getLsbD]
  · simp [hcfgCmd, hcfgErr, hcfgWdog]
  · simp [Ne.symm hcfgCmd, hcmdErr, hcmdWdog]
  · simp [Ne.symm hcfgErr, Ne.symm hcmdErr, herrWdog]
  · simp [Ne.symm hcfgWdog, Ne.symm hcmdWdog, Ne.symm herrWdog]
  · simp only [List.mem_cons, List.not_mem_nil, or_false, not_or] at hi
    simp [hi]

end Sys2Proof.Machine

namespace Sys2Proof.Machine

/-! ### Whole transactions (41_write_commands.md section 9, 70_reset_and_hazards.md section 2) -/

/-- A run goes on from where its first step leads. -/
theorem run_succ_of_step {M : Host.Core} {s t : M.State} (h : M.step s = .next t) (n : Nat) :
    M.run (n + 1) s = M.run n t := by
  rw [Host.Core.run, h]

/-- A data byte in range is stored, and what it runs has the shape of a command's effect. -/
theorem State.dataByte_inRange {s : State} (hs : s.StorageWf) (hsel : s.sel.toNat < 128) (v : Byte) :
    ∃ reqs cmd recs, DataByteRan s (s.dataByte v (runWritePhase v)) v reqs cmd recs := by
  have ha := (setWidth_toNat_of_lt hsel).symm
  obtain ⟨reqs, cmd, recs, hran, -⟩ := runWritePhase_cases v (s.setCell (s.sel.setWidth 7) v)
  exact ⟨reqs, cmd, recs, State.dataByte_ran hs ha hran⟩

theorem DataByteRan.ready {s t : State} {v : Byte} {reqs : List GpioRequest} {cmd : Bool} {recs : List Record}
    (h : DataByteRan s t v reqs cmd recs) (hs : s.Ready) : t.Ready :=
  ⟨h.setup.booted.trans hs.1, h.fault.trans hs.2⟩

theorem ByteRequestRan.ready {s t : State} {r : Byte} {qs : List GpioQuery} {cmd : Bool} {recs : List Record}
    (h : ByteRequestRan s t r qs cmd recs) (hs : s.Ready) : t.Ready :=
  ⟨h.setup.booted.trans hs.1, h.fault.trans hs.2⟩

/-- Settles O51: the address byte selects, the data byte is stored whatever it runs, and FIN keeps the cells. -/
theorem writeTransactionStoresByte : Obligations.WriteTransactionStoresByte := by
  unfold Obligations.WriteTransactionStoresByte
  intro s a v rest hs hstorage hidle ha hsched
  have haddress := step_address hs hidle hsched
  have hdata := step_data (s := { s with schedule := .event (.rx v) :: .event .fin :: rest, sel := a, aset := true })
    hs rfl rfl
  obtain ⟨reqs, cmd, recs, hran⟩ := State.dataByte_inRange
    (s := { s with schedule := .event .fin :: rest, sel := a, aset := true }) hstorage ha v
  have hfin := step_fin (hran.ready hs) hran.setup.schedule
  have hrun := calc core.run 3 s
    _ = core.run 2 _ := run_succ_of_step (M := core) haddress 2
    _ = core.run 1 _ := run_succ_of_step (M := core) hdata 1
    _ = core.run 0 _ := run_succ_of_step (M := core) hfin 0
  exact ⟨_, hrun, hran.cell, hran.sel, rfl, (hran.ready hs).2, rfl, hran.otherCells⟩

/-- Which commands are getters is not up to the argument. -/
theorem getterKind_of_getter {m : ReadCmd} {v : Byte} {k : QueryKind} (h : getterKind v m = some k) (w : Byte) :
    ∃ k', getterKind w m = some k' := by
  cases m
  case verMajor | verMinor | status => cases h
  all_goals exact ⟨_, rfl⟩

/-- After a request the device stands at the same address, ready for the next one. -/
theorem ByteRequestRan.atId {s t : State} {r : Byte} {qs : List GpioQuery} {cmd : Bool} {recs : List Record} {id : RegAddr}
    (h : ByteRequestRan s t r qs cmd recs) (hs : s.AtId id) (ht : t.StorageWf) : t.AtId id :=
  ⟨h.ready hs.ready, ht, h.sel.trans hs.sel⟩

theorem ByteRequestRan.cellAt {s t : State} {r : Byte} {qs : List GpioQuery} {cmd : Bool} {recs : List Record} {id : RegAddr}
    (h : ByteRequestRan s t r qs cmd recs) (hs : s.AtId id) : t.cell id = r := by
  rw [← h.cell, hs.sel, RegAddr.toByte_toNat]
  rfl

/-- Settles O52: the first request leaves the getter's cell at its answer and the device at the getter's address, where the
second request finds it. -/
theorem repeatedGetterUsesPreviousAnswer : Obligations.RepeatedGetterUsesPreviousAnswer := by
  unfold Obligations.RepeatedGetterUsesPreviousAnswer
  intro s m k hs hport hk
  obtain ⟨t, hexec, hran⟩ := readCompletes_of_getter hs hport hk
  have hcell := hran.cellAt hs
  have ht := hran.atId hs (exec_storage hs.storage hexec)
  obtain ⟨k', hk'⟩ := getterKind_of_getter hk (t.cell (s.params.readId m))
  rw [← hran.setup.params] at ht hk'
  obtain ⟨u, hexec', hran'⟩ := readCompletes_of_getter ht (fun h => hran.setup.portOk.trans (hport h)) hk'
  have hcell' := hran'.cellAt ht
  rw [hran.setup.params, hcell, hran.draws] at hcell' hran'
  rw [hran.setup.params, hcell] at hk'
  refine ⟨t, u, _, k', hexec, hexec', rfl, hk', ?_, hcell', ?_⟩
  · rw [hran'.reply, hran.reply, List.append_assoc]
    rfl
  · rw [hran'.queries, hran.queries, List.append_assoc]
    rfl

/-- The state after a port-wide command was rejected: ready, in form, `cmd` raised, `first` replied, nothing sent or queried. -/
structure PortWideRejected (s t : State) (first : List Byte) : Prop where
  ready : t.Ready
  storage : t.StorageWf
  params : t.params = s.params
  schedule : t.schedule = s.schedule
  cmd : t.flags.cmd = true
  replies : t.replies = s.replies ++ first
  requests : t.gpioLog = s.gpioLog
  queries : t.queryLog = s.queryLog

theorem exec_portSetter_rejected {m : WriteCmd} {s : State} (hm : writeNeedsPort m = true) (hport : s.portOk = false)
    (h : s.AtId (s.params.writeId m)) (v : Byte) : ∃ t, exec (m.instr v) s = .next t ∧ PortWideRejected s t [] := by
  obtain ⟨t, hexec, hran⟩ := writeRejected_of_port hm hport v h
  exact ⟨t, hexec,
    { ready := hran.ready h.ready
      storage := exec_storage h.storage hexec
      params := hran.setup.params
      schedule := hran.setup.schedule
      cmd := by simp [hran.flags]
      replies := by rw [hran.replies, List.append_nil]
      requests := by rw [hran.requests, List.append_nil]
      queries := hran.queries }⟩

theorem exec_portGetter_rejected {m : ReadCmd} {s : State} (hm : readNeedsPort m = true) (hport : s.portOk = false)
    (h : s.AtId (s.params.readId m)) :
    ∃ t, exec m.instr s = .next t ∧ PortWideRejected s t [s.cell (s.params.readId m)] := by
  obtain ⟨t, hexec, hran⟩ := readRejected_of_port hm hport h
  exact ⟨t, hexec,
    { ready := hran.ready h.ready
      storage := exec_storage h.storage hexec
      params := hran.setup.params
      schedule := hran.setup.schedule
      cmd := by simp [hran.flags]
      replies := hran.reply
      requests := hran.requests
      queries := by rw [hran.queries, List.append_nil] }⟩

theorem needsPort_of_mem_getters : ∀ m ∈ [ReadCmd.getPort0, .getPort1], readNeedsPort m = true := by decide

/-- The event asks for a port-wide command that stands at the address in force: a data byte for a setter, which replies
nothing, or a request for a getter, whose reply under another identity is the unchanged cell. -/
def PortWideEvent (s : State) (e : Event) (first : List Byte) : Prop :=
  (∃ m ∈ [WriteCmd.port0Dir, .port0Out, .port1Dir, .port1Out], ∃ v, s.sel = RegAddr.toByte (s.params.writeId m)
      ∧ s.aset = true ∧ e = .rx v ∧ first = [])
    ∨ ∃ m ∈ [ReadCmd.getPort0, .getPort1], s.sel = RegAddr.toByte (s.params.readId m)
      ∧ e = .req ∧ first = [s.cell (s.params.readId m)]

theorem step_portWide_rejected {s : State} {e : Event} {rest : List Input} {first : List Byte} (hs : s.Ready)
    (hstorage : s.StorageWf) (hp : s.params.Admissible) (hport : s.portOk = false) (hsched : s.schedule = .event e :: rest)
    (he : PortWideEvent s e first) : ∃ t, step s = .next t ∧ PortWideRejected { s with schedule := rest } t first := by
  rw [step_event hs.1 hsched (.inr hs.2)]
  rcases he with ⟨m, hm, v, hsel, haset, rfl, rfl⟩ | ⟨m, hm, hsel, rfl, rfl⟩
  · have hdecode : decode s.params (s.fetchOf (.rx v)) = m.instr v := by
      rw [State.fetchOf, haset]
      exact decode_data_command (hsel ▸ wcmd_writeId hp m) v
    rw [hdecode]
    exact exec_portSetter_rejected (s := { s with schedule := rest }) (needsPort_of_mem_setters m hm) hport
      ⟨hs, hstorage, hsel⟩ v
  · have hdecode : decode s.params (s.fetchOf .req) = m.instr :=
      decode_request_command (hsel ▸ rcmd_readId hp m) s.aset
    rw [hdecode]
    exact exec_portGetter_rejected (s := { s with schedule := rest }) (needsPort_of_mem_getters m hm) hport
      ⟨hs, hstorage, hsel⟩

/-- With `cmd` raised, the script that reads STATUS gets a byte with `cmd`'s bit set, and sends and queries nothing. -/
theorem run_status_cmd {s : State} {rest : List Input} (hs : s.Ready) (hstorage : s.StorageWf)
    (hsched : s.schedule = .event .fin :: .event (.rx (RegAddr.toByte (s.params.readId .status))) :: .event .fin
      :: .event .req :: rest) (hcmd : s.flags.cmd = true) :
    ∃ u r, core.run 4 s = .next u ∧ u.replies = s.replies ++ [r] ∧ r.getLsbD s.params.flagPos.cmd.val = true
      ∧ u.gpioLog = s.gpioLog ∧ u.queryLog = s.queryLog := by
  have hfin := step_fin hs hsched
  have haddress := step_address (s := { s with
    schedule := .event (.rx (RegAddr.toByte (s.params.readId .status))) :: .event .fin :: .event .req :: rest,
    aset := false }) hs rfl rfl
  have hfin' := step_fin (s := { s with
    schedule := .event .fin :: .event .req :: rest, sel := RegAddr.toByte (s.params.readId .status), aset := true }) hs rfl
  have hrequest := step_event (s := { s with
    schedule := .event .req :: rest, sel := RegAddr.toByte (s.params.readId .status), aset := false }) hs.1 rfl (.inr hs.2)
  obtain ⟨u, hexec, hran⟩ := status_completes (s := { s with
    schedule := rest, sel := RegAddr.toByte (s.params.readId .status), aset := false }) ⟨hs, hstorage, rfl⟩
  have hrun := calc core.run 4 s
    _ = core.run 3 _ := run_succ_of_step (M := core) hfin 3
    _ = core.run 2 _ := run_succ_of_step (M := core) haddress 2
    _ = core.run 1 _ := run_succ_of_step (M := core) hfin' 1
    _ = core.run 0 _ := run_succ_of_step (M := core) (hrequest.trans hexec) 0
  refine ⟨u, _, hrun, hran.reply, ?_, hran.requests, ?_⟩
  · rw [flagsByte_getLsbD]
    simp [hcmd]
  · rw [hran.queries, List.append_nil]

/-- Settles O53: the first step is a rejection, which raises `cmd` and changes neither the log nor the queries; the other
four read STATUS. -/
theorem rejectionShowsInStatus : Obligations.RejectionShowsInStatus := by
  unfold Obligations.RejectionShowsInStatus
  intro s e rest first hs hstorage hp hport hsched he
  obtain ⟨t, hfirst, ht⟩ := step_portWide_rejected hs hstorage hp hport hsched he
  have hscript := ht.schedule
  rw [← ht.params] at hscript
  obtain ⟨u, r, hrun, hreply, hbit, hlog, hqueries⟩ := run_status_cmd ht.ready ht.storage hscript ht.cmd
  rw [ht.params] at hbit
  exact ⟨u, r, (run_succ_of_step (M := core) hfirst 4).trans hrun, by rw [hreply, ht.replies], hbit,
    hlog.trans ht.requests, hqueries.trans ht.queries⟩

end Sys2Proof.Machine
